-- ==== Sys2Proof/Word.lean ====
section
/-! DEFINITION. The widths of the TSL2561 Lux Conversion Engine's values, each under a name. -/

namespace Sys2Proof

/-- A command header, or one byte of a byte-wide link (R70, R71). -/
abbrev Byte := BitVec 8

/-- A data word of a transaction, and a 32-bit register (R71, R55). -/
abbrev Word := BitVec 32

/-- A channel count, a calibration value, half a data word (R76, R171). -/
abbrev Half := BitVec 16

/-- A register index (R50). -/
abbrev Index := BitVec 7

end Sys2Proof
end

