-- ==== Sys2Proof/Config.lean ====
section
/-! DEFINITION. The setting's enumerations (R4) and the shape of the one implementation parameter, the pair of calibration
tables CAL_CS and CAL_T (R8, R170, R171). The tables' values are data of these types: the machine holds them as its
calibration ROM, and Machine/Calibration.lean holds the spec's default values. -/

namespace Sys2Proof

/-- GainSetting of R4: x1 (no gain) or x16. -/
inductive Gain where
  | x1
  | x16
  deriving DecidableEq, Repr

/-- IntegrationTime of R4: 13.7 ms, 101 ms or 402 ms. Only these three exist (R25: code 3 is never stored). -/
inductive IntegTime where
  | ms13
  | ms101
  | ms402
  deriving DecidableEq, Repr

/-- PackageType of R4: CS or T/FN/CL. -/
inductive Package where
  | cs
  | t
  deriving DecidableEq, Repr

/-- One calibration entry: the ratio bound K (scale 2^9) and the coefficients B and M (scale 2^14), 16 bits each (R170, R171). -/
structure CalEntry where
  k : Half
  b : Half
  m : Half
  deriving DecidableEq, Repr

/-- One calibration table: exactly eight entries, numbered 1 to 8 as the spec numbers them (R170, R173 (a)). -/
structure CalTable where
  e1 : CalEntry
  e2 : CalEntry
  e3 : CalEntry
  e4 : CalEntry
  e5 : CalEntry
  e6 : CalEntry
  e7 : CalEntry
  e8 : CalEntry
  deriving DecidableEq, Repr

/-- The calibration ROM: one table per package type (R38, R170). -/
structure CalRom where
  cs : CalTable
  t : CalTable
  deriving DecidableEq, Repr

end Sys2Proof
end

