-- ==== Sys2Proof/Syntax.lean ====
section
/-! DEFINITION. The transactions of the LCE, one constructor per row of spec/opcode_table.json (R77, R82). -/

namespace Sys2Proof

/-- A transaction the decoder recognises, its operand fields pulled out of the encoding. A write keeps its operand as the whole
data word where the spec checks the whole word (R74 (a) to (c), R76); CONVERT's word is the pair of counts (R74 (d)). The entry of a
calibration read is the encoded H[2:0], which is the spec's entry number minus 1 (R75). -/
inductive Instr where
  | wrConfig (wdata : Word)
  | rdConfig
  | wrGain (wdata : Word)
  | rdGain
  | wrTiming (wdata : Word)
  | rdTiming
  | rdDelay
  | convert (full ir : Half)
  | rdStatus
  | rdLux
  | rdFullScaled
  | rdIrScaled
  | rdRatio
  | rdSelect
  | rdCoef
  | rdCalKb (pkg : Package) (entry : Fin 8)
  | rdCalM (pkg : Package) (entry : Fin 8)
  deriving DecidableEq, Repr

end Sys2Proof
end

