-- ==== Sys2Proof/WellFormed.lean ====
section
/-! DEFINITION. Which transactions carry a legal operand: the legal words of R74, listed as the spec lists them. A transaction
with an illegal operand is still a transaction (it decodes, and it is answered CFG_ERROR, R78); the check is the one a host makes
before it issues a write (R246 (1)). -/

namespace Sys2Proof

/-- The twelve legal words of WR_CONFIG (R74 (a)). -/
def legalConfigWords : List Word :=
  [0x000, 0x001, 0x002, 0x010, 0x011, 0x012, 0x100, 0x101, 0x102, 0x110, 0x111, 0x112]

/-- The legal words of WR_GAIN (R74 (b)). -/
def legalGainWords : List Word := [0x00000000, 0x00000010]

/-- The legal words of WR_TIMING (R74 (c)). -/
def legalTimingWords : List Word := [0x00000000, 0x00000001, 0x00000002]

/-- The operand is one that R74 calls legal. Every CONVERT word is (R74 (d)), and reads have no operand word. -/
def Instr.wellFormed : Instr → Bool
  | .wrConfig wdata => legalConfigWords.contains wdata
  | .rdConfig => true
  | .wrGain wdata => legalGainWords.contains wdata
  | .rdGain => true
  | .wrTiming wdata => legalTimingWords.contains wdata
  | .rdTiming => true
  | .rdDelay => true
  | .convert _ _ => true
  | .rdStatus => true
  | .rdLux => true
  | .rdFullScaled => true
  | .rdIrScaled => true
  | .rdRatio => true
  | .rdSelect => true
  | .rdCoef => true
  | .rdCalKb _ _ => true
  | .rdCalM _ _ => true

end Sys2Proof
end

