-- ==== Sys2Proof/Decode.lean ====
section
/-! DEFINITION. The transaction as the host sends it (R70, R71), the decoder, total on every transaction and on every string of
bytes, rejecting by name (R77), and the encoder, written from the same rules (R75, R80, R82). -/

namespace Sys2Proof

/-- A transaction as it stands on the host port, in one of the two formats of R71, told apart by H[7]: format RD carries a register
index, format WR an index and a 32-bit data word. -/
inductive Transaction where
  | read (idx : Index)
  | write (idx : Index) (wdata : Word)
  deriving DecidableEq, Repr

/-- The command header H: bit 7 is W, bits 6:0 are IDX (R71). -/
def Transaction.header : Transaction → Byte
  | .read idx => 0#1 ++ idx
  | .write idx _ => 1#1 ++ idx

/-- PKG = 0 is CS and PKG = 1 is T/FN/CL (R26). -/
def Package.ofBit (b : Bool) : Package := if b then .t else .cs

/-- The bit that `Package.ofBit` reads (R26). -/
def Package.bit : Package → BitVec 1
  | .cs => 0
  | .t => 1

/-- IDX[3] of a calibration read: the package (R75). -/
def calPackage (idx : Index) : Package := Package.ofBit (idx.getLsbD 3)

/-- IDX[2:0] of a calibration read: the entry number minus 1 (R75). -/
def calEntry (idx : Index) : Fin 8 := (idx.extractLsb 2 0).toFin

/-- The W = 0 half of R77's decode. -/
def decodeRead (idx : Index) : Option Instr :=
  match idx.toNat with
  | 0x00 => some .rdConfig
  | 0x01 => some .rdGain
  | 0x02 => some .rdTiming
  | 0x03 => some .rdDelay
  | 0x05 => some .rdStatus
  | 0x06 => some .rdLux
  | 0x07 => some .rdFullScaled
  | 0x08 => some .rdIrScaled
  | 0x09 => some .rdRatio
  | 0x0A => some .rdSelect
  | 0x0B => some .rdCoef
  | n =>
    if 0x10 ≤ n ∧ n ≤ 0x1F then some (.rdCalKb (calPackage idx) (calEntry idx))
    else if 0x20 ≤ n ∧ n ≤ 0x2F then some (.rdCalM (calPackage idx) (calEntry idx))
    else none

/-- The W = 1 half of R77's decode; CONVERT's operand pair is taken apart as R76 says. -/
def decodeWrite (idx : Index) (wdata : Word) : Option Instr :=
  match idx.toNat with
  | 0x00 => some (.wrConfig wdata)
  | 0x01 => some (.wrGain wdata)
  | 0x02 => some (.wrTiming wdata)
  | 0x04 => some (.convert (wdata.extractLsb 15 0) (wdata.extractLsb 31 16))
  | _ => none

/-- R77's decode: the transaction's instruction, or none where the header is ILLEGAL. It looks at nothing but the transaction: no mode and no
state changes decoding (R79). -/
def decode : Transaction → Option Instr
  | .read idx => decodeRead idx
  | .write idx wdata => decodeWrite idx wdata

/-- Why a string of bytes gives no instruction. -/
inductive DecodeError where
  /-- The bytes end before the transaction does: no header, or a write header with fewer than four bytes behind it. -/
  | incomplete
  /-- A whole transaction whose header is ILLEGAL: the LCE answers it ACCESS_ERROR (R77, R213). -/
  | illegal
  deriving DecidableEq, Repr

/-- The first transaction of a byte-wide link and the bytes after it. Its length is known from H[7] alone: a read is 1 byte, a
write 5, the data word's least significant byte first (R71, R52). -/
def takeTransaction : List Byte → Option (Transaction × List Byte)
  | [] => none
  | h :: rest =>
    if h.getLsbD 7 then
      match rest with
      | b0 :: b1 :: b2 :: b3 :: rest' => some (.write (h.extractLsb 6 0) (b3 ++ b2 ++ b1 ++ b0), rest')
      | _ => none
    else some (.read (h.extractLsb 6 0), rest)

/-- The first instruction of a byte-wide link and the bytes after it, or the name of why there is none. -/
def decodeBytes (bytes : List Byte) : Except DecodeError (Instr × List Byte) :=
  match takeTransaction bytes with
  | none => .error .incomplete
  | some (t, rest) =>
    match decode t with
    | none => .error .illegal
    | some i => .ok (i, rest)

/-- The index of a calibration read: the table half in bits 6:4, the package in bit 3, the entry minus 1 in bits 2:0 (R75). -/
def calIndex (half : BitVec 3) (pkg : Package) (entry : Fin 8) : Index :=
  half ++ pkg.bit ++ BitVec.ofFin (w := 3) entry

/-- The transaction that carries an instruction (R73, R80, R82). -/
def encode : Instr → Transaction
  | .wrConfig wdata => .write 0x00 wdata
  | .rdConfig => .read 0x00
  | .wrGain wdata => .write 0x01 wdata
  | .rdGain => .read 0x01
  | .wrTiming wdata => .write 0x02 wdata
  | .rdTiming => .read 0x02
  | .rdDelay => .read 0x03
  | .convert full ir => .write 0x04 (ir ++ full)
  | .rdStatus => .read 0x05
  | .rdLux => .read 0x06
  | .rdFullScaled => .read 0x07
  | .rdIrScaled => .read 0x08
  | .rdRatio => .read 0x09
  | .rdSelect => .read 0x0A
  | .rdCoef => .read 0x0B
  | .rdCalKb pkg entry => .read (calIndex 0b001 pkg entry)
  | .rdCalM pkg entry => .read (calIndex 0b010 pkg entry)

/-- The bytes a transaction takes on a byte-wide link: the header, then a write's data word least significant byte first (R71, R52). -/
def Transaction.bytes (t : Transaction) : List Byte :=
  match t with
  | .read _ => [t.header]
  | .write _ wdata =>
    [t.header, wdata.extractLsb 7 0, wdata.extractLsb 15 8, wdata.extractLsb 23 16, wdata.extractLsb 31 24]

/-- The bytes an instruction takes on a byte-wide link. -/
def encodeBytes (i : Instr) : List Byte := (encode i).bytes

/-- The opcode table's mask and match of the instruction's row (spec/opcode_table.json): the header ANDed with the mask is the match. -/
def tableMaskMatch : Instr → Byte × Byte
  | .wrConfig _ => (0xFF, 0x80)
  | .rdConfig => (0xFF, 0x00)
  | .wrGain _ => (0xFF, 0x81)
  | .rdGain => (0xFF, 0x01)
  | .wrTiming _ => (0xFF, 0x82)
  | .rdTiming => (0xFF, 0x02)
  | .rdDelay => (0xFF, 0x03)
  | .convert _ _ => (0xFF, 0x84)
  | .rdStatus => (0xFF, 0x05)
  | .rdLux => (0xFF, 0x06)
  | .rdFullScaled => (0xFF, 0x07)
  | .rdIrScaled => (0xFF, 0x08)
  | .rdRatio => (0xFF, 0x09)
  | .rdSelect => (0xFF, 0x0A)
  | .rdCoef => (0xFF, 0x0B)
  | .rdCalKb _ _ => (0xF0, 0x10)
  | .rdCalM _ _ => (0xF0, 0x20)

/-- The five bytes of the table's numbering: bits 7:0 of w are the header, each later byte follows; bits at nbits and above are 0. -/
def tableBytes (nbits w : Nat) : List Byte :=
  let v := w % 2 ^ nbits
  [BitVec.ofNat 8 v, BitVec.ofNat 8 (v / 2 ^ 8), BitVec.ofNat 8 (v / 2 ^ 16), BitVec.ofNat 8 (v / 2 ^ 24),
    BitVec.ofNat 8 (v / 2 ^ 32)]

/-- The instruction the decoder reads from the table's numbering of its bits, operand bits beyond nbits being 0. -/
def decodeTableWord (nbits w : Nat) : Option Instr :=
  match decodeBytes (tableBytes nbits w) with
  | .ok (i, _) => some i
  | .error _ => none

end Sys2Proof
end

