-- ==== Sys2Proof/Machine/Calibration.lean ====
section
/-! DEFINITION. The calibration tables: lookup (R175), the constraint every argument must meet (R173), and the spec's default
values (R172, R174), which the spec marks as general knowledge: PRESUMED, log entry 1. -/

namespace Sys2Proof

/-- `CAL(pkg)` (R175). -/
def CalRom.table (rom : CalRom) : Package → CalTable
  | .cs => rom.cs
  | .t => rom.t

/-- Entry i + 1 of a table: i is the encoded H[2:0] (R75, R175). -/
def CalTable.entry (tab : CalTable) (i : Fin 8) : CalEntry :=
  match i with
  | 0 => tab.e1
  | 1 => tab.e2
  | 2 => tab.e3
  | 3 => tab.e4
  | 4 => tab.e5
  | 5 => tab.e6
  | 6 => tab.e7
  | 7 => tab.e8

/-- The entries in increasing order, each with the number SEL records for it (R138, R36). -/
def CalTable.numbered (tab : CalTable) : List (BitVec 4 × CalEntry) :=
  [(1, tab.e1), (2, tab.e2), (3, tab.e3), (4, tab.e4), (5, tab.e5), (6, tab.e6), (7, tab.e7), (8, tab.e8)]

/-- The bounds are non-decreasing, K1 ≤ K2 ≤ … ≤ K8 (R173 (b)). -/
def CalTable.ordered (tab : CalTable) : Bool :=
  tab.e1.k.ule tab.e2.k && tab.e2.k.ule tab.e3.k && tab.e3.k.ule tab.e4.k && tab.e4.k.ule tab.e5.k &&
    tab.e5.k.ule tab.e6.k && tab.e6.k.ule tab.e7.k && tab.e7.k.ule tab.e8.k

/-- Both tables meet R173: a ROM that does not is outside the spec. -/
def CalRom.ordered (rom : CalRom) : Bool := rom.cs.ordered && rom.t.ordered

/-- The default CAL_T (R172). PRESUMED, log entry 1. -/
def defaultCalT : CalTable where
  e1 := ⟨0x0040, 0x01F2, 0x01BE⟩
  e2 := ⟨0x0080, 0x0214, 0x02D1⟩
  e3 := ⟨0x00C0, 0x023F, 0x037B⟩
  e4 := ⟨0x0100, 0x0270, 0x03FE⟩
  e5 := ⟨0x0138, 0x016F, 0x01FC⟩
  e6 := ⟨0x019A, 0x00D2, 0x00FB⟩
  e7 := ⟨0x029A, 0x0018, 0x0012⟩
  e8 := ⟨0x029A, 0x0000, 0x0000⟩

/-- The default CAL_CS (R174). PRESUMED, log entry 1. -/
def defaultCalCs : CalTable where
  e1 := ⟨0x0043, 0x0204, 0x01AD⟩
  e2 := ⟨0x0085, 0x0228, 0x02C1⟩
  e3 := ⟨0x00C8, 0x0253, 0x0363⟩
  e4 := ⟨0x010A, 0x0282, 0x03DF⟩
  e5 := ⟨0x014D, 0x0177, 0x01DD⟩
  e6 := ⟨0x019A, 0x0101, 0x0127⟩
  e7 := ⟨0x029A, 0x0037, 0x002B⟩
  e8 := ⟨0x029A, 0x0000, 0x0000⟩

/-- The default calibration ROM (R172, R174). PRESUMED, log entry 1. -/
def defaultRom : CalRom where
  cs := defaultCalCs
  t := defaultCalT

end Sys2Proof
end

