-- ==== Sys2Proof/Machine/State.lean ====
section
/-! DEFINITION. The state of the LCE (R22), the host's side of its one port, and the reasons a step can stop. -/

namespace Sys2Proof.Machine

/-- The response codes of R72. -/
inductive RespCode where
  /-- 0b00: performed. -/
  | okay
  /-- 0b01: a configuration value outside the recognised set (R211). -/
  | cfgError
  /-- 0b10: a setter or a conversion before the first accepted WR_CONFIG (R212). -/
  | notConfigured
  /-- 0b11: a header with no transaction (R213). -/
  | accessError
  deriving DecidableEq, Repr

/-- RESP[1:0] of a response code (R72). -/
def RespCode.bits : RespCode → BitVec 2
  | .okay => 0b00
  | .cfgError => 0b01
  | .notConfigured => 0b10
  | .accessError => 0b11

/-- A response: RESP and RDATA (R70, R71). -/
structure Response where
  code : RespCode
  rdata : Word
  deriving DecidableEq, Repr

/-- What the host can do to the LCE (R251): issue a transaction, or assert reset between two of them (R240). -/
inductive HostEvent where
  | transaction (t : Transaction)
  | reset
  deriving DecidableEq, Repr

/-- The registers of R22, each once; every register the host reads is a view of these (R23 to R37). -/
structure Regs where
  /-- CONFIGURED (R28). -/
  configured : Bool
  /-- GAIN (R24). -/
  gain : Gain
  /-- INTEG (R25); DELAY is a function of it and not stored (R27). -/
  integ : IntegTime
  /-- PKG (R26). -/
  pkg : Package
  /-- SAT (R30). -/
  sat : Bool
  /-- RESULT_VALID (R31). -/
  resultValid : Bool
  /-- LUX (R32). -/
  lux : Word
  /-- FULL_SCALED (R33). -/
  fullScaled : Word
  /-- IR_SCALED (R34). -/
  irScaled : Word
  /-- RATIO (R35). -/
  ratio : Word
  /-- SEL: 0 none, 1 to 8 an entry, 9 the CS fall-through (R36). -/
  sel : BitVec 4
  /-- COEF_B (R37). -/
  coefB : Half
  /-- COEF_M (R37). -/
  coefM : Half
  deriving DecidableEq, Repr

/-- The machine: the LCE's registers and calibration ROM (R22), and the two ends of its host port. `pending` and `responses` are the
model's own (log entries 3 and 5): what the host has issued and the LCE has not taken yet, and what it has answered so far. -/
structure State where
  /-- The registers (R22). -/
  regs : Regs
  /-- The calibration ROM (R38): the parameters CAL_CS and CAL_T. -/
  rom : CalRom
  /-- What the host has issued and the LCE has not taken yet, oldest first. DESIGN CHOICE, log entry 3. -/
  pending : List HostEvent
  /-- Every response given so far, oldest first. DESIGN CHOICE, log entry 5. -/
  responses : List Response
  deriving DecidableEq, Repr

/-- The reasons a machine stops with a fault. There is none: the LCE has no trap, and its errors are response codes after which it
goes on (R215, R219). -/
inductive Fault where
  deriving DecidableEq, Repr

/-- The reasons the model gives no next state. -/
inductive Refusal where
  /-- Raised by an arm of exec whose instruction has no meaning yet; none is left. Safe: nothing is claimed of the machine. -/
  | notModelled (mnemonic : String)
  /-- Raised by `step`, before anything else, when a calibration table's bounds are not non-decreasing: such tables are outside the
  spec and a model should refuse them (R173, I14). Safe: nothing is claimed of such a machine. Log entry 2. -/
  | calibrationOutsideSpec
  deriving DecidableEq, Repr

/-- What one step of this machine answers. -/
abbrev Result := Host.Outcome State Fault Refusal

/-- The registers at reset (R22's column, R43, R240). -/
def Regs.reset : Regs where
  configured := false
  gain := .x1
  integ := .ms13
  pkg := .cs
  sat := false
  resultValid := false
  lux := 0
  fullScaled := 0
  irScaled := 0
  ratio := 0
  sel := 0
  coefB := 0
  coefM := 0

/-- The machine right after power-on with the given calibration tables, waiting for the host's first transaction (R240 to R242). -/
def State.resetWith (rom : CalRom) : State where
  regs := Regs.reset
  rom := rom
  pending := []
  responses := []

/-- The machine right after reset, with the spec's default tables (log entry 1). -/
def State.reset : State := State.resetWith defaultRom

end Sys2Proof.Machine
end

