-- ==== Sys2Proof/Machine/Operands.lean ====
section
/-! DEFINITION. The operand forms: the codes of the setting's fields (R24 to R27), the write operands WR_CONFIG, WR_GAIN and WR_TIMING
accept (R74, R101, R103, R105), and the word each register reads as (R23, R73). -/

namespace Sys2Proof

/-- GAIN: 0 is x1, 1 is x16 (R24). -/
def Gain.bit : Gain → BitVec 1
  | .x1 => 0
  | .x16 => 1

/-- The gain of a GAIN bit (R24). -/
def Gain.ofBit (b : Bool) : Gain := if b then .x16 else .x1

/-- INTEG's code (R25). -/
def IntegTime.code : IntegTime → BitVec 2
  | .ms13 => 0
  | .ms101 => 1
  | .ms402 => 2

/-- The integration time of a code: 0, 1 and 2 are recognised and no other (R25, R101, R105). -/
def IntegTime.ofCode : Nat → Option IntegTime
  | 0 => some .ms13
  | 1 => some .ms101
  | 2 => some .ms402
  | _ => none

/-- DELAY, the acquisition delay in milliseconds, a function of INTEG (R27). -/
def IntegTime.delay : IntegTime → Half
  | .ms13 => 15
  | .ms101 => 120
  | .ms402 => 450

namespace Machine

/-- The fields of a WR_CONFIG word: DATA[3:0] the INTEG code, DATA[4] GAIN, DATA[8] PKG, every other bit 0; none where the code is above
2 or a reserved bit is 1 (R74 (a), R101). -/
def configOperand (wdata : Word) : Option (IntegTime × Gain × Package) :=
  if wdata.extractLsb 7 5 = 0 ∧ wdata.extractLsb 31 9 = 0 then
    match IntegTime.ofCode (wdata.extractLsb 3 0).toNat with
    | some integ => some (integ, Gain.ofBit (wdata.getLsbD 4), Package.ofBit (wdata.getLsbD 8))
    | none => none
  else none

/-- The gain of a WR_GAIN word, compared as a whole word (R103, R74 (b)). -/
def gainOperand (wdata : Word) : Option Gain :=
  if wdata = 0x00000000 then some .x1
  else if wdata = 0x00000010 then some .x16
  else none

/-- The integration time of a WR_TIMING word, compared as a whole word (R105, R74 (c)). -/
def timingOperand (wdata : Word) : Option IntegTime := IntegTime.ofCode wdata.toNat

/-- CONFIG as read: zext_23(0), PKG, 0b000, GAIN, zext_4(INTEG) (R23, R102). -/
def Regs.configWord (r : Regs) : Word :=
  0#23 ++ r.pkg.bit ++ 0#3 ++ r.gain.bit ++ r.integ.code.setWidth 4

/-- GAIN as read: the timing-byte code GAIN << 4 (R24, R104). -/
def Regs.gainWord (r : Regs) : Word := r.gain.bit.setWidth 32 <<< 4

/-- TIMING as read (R106). -/
def Regs.timingWord (r : Regs) : Word := r.integ.code.setWidth 32

/-- DELAY as read (R107). -/
def Regs.delayWord (r : Regs) : Word := r.integ.delay.setWidth 32

/-- SELECT as read (R36, R196). -/
def Regs.selectWord (r : Regs) : Word := r.sel.setWidth 32

/-- COEF as read: COEF_M in bits 31:16, COEF_B in bits 15:0 (R37, R197). -/
def Regs.coefWord (r : Regs) : Word := r.coefM ++ r.coefB

end Machine

/-- CAL_KB as read: B in bits 31:16, K in bits 15:0 (R198). -/
def CalEntry.kbWord (e : CalEntry) : Word := e.b ++ e.k

/-- CAL_M as read (R199). -/
def CalEntry.mWord (e : CalEntry) : Word := e.m.setWidth 32

end Sys2Proof
end

