-- ==== Sys2Proof/Machine/Ops.lean ====
section
/-! DEFINITION. The named operations of the host port: giving a response (R70), refusing a transaction (R215), reset (R240), taking what
the host issued next (R59). The LCE has no memory (R50) and no trap (R219): refusing a transaction is all that an error does. -/

namespace Sys2Proof.Machine

/-- `respond(code, rdata)`: the transaction's one response goes to the host (R12, R70). -/
def State.respond (s : State) (code : RespCode) (rdata : Word) : State :=
  { s with responses := s.responses ++ [⟨code, rdata⟩] }

/-- `raise`: the transaction ends with its error code and read data 0, and every write it would have made is discarded (R12, R215). -/
def raise (code : RespCode) (s : State) : Result := .next (s.respond code 0)

/-- A performed read: OKAY and the register's word (R71), with no state written (R56). -/
def answerRead (rdata : Word) (s : State) : Result := .next (s.respond .okay rdata)

/-- A performed write: the registers it leaves, and OKAY with read data 0 (R71). -/
def answerWrite (regs : Regs) (s : State) : Result := .next ({ s with regs := regs }.respond .okay 0)

/-- Reset: every register at its reset value, the calibration ROM unchanged, no response (R240, R241). The port's two ends are the host's
and stay (log entry 7). -/
def State.applyReset (s : State) : State := { s with regs := Regs.reset }

/-- An ILLEGAL header is performed as: raise ACCESS_ERROR (R77, R213). -/
def illegalHeader (s : State) : Result := raise .accessError s

/-- What the LCE finds on its port. -/
inductive Fetched where
  /-- Nothing is issued. -/
  | idle
  /-- Reset is asserted; the state with that event taken. -/
  | reset (s : State)
  /-- The host's next transaction; the state with that event taken. -/
  | transaction (t : Transaction) (s : State)
  deriving DecidableEq, Repr

/-- Take the oldest event the host has issued: transactions are performed in issue order (R59). -/
def fetch (s : State) : Fetched :=
  match s.pending with
  | [] => .idle
  | .reset :: rest => .reset { s with pending := rest }
  | .transaction t :: rest => .transaction t { s with pending := rest }

/-- The state with the transaction on the port before everything else the host has issued. -/
def State.withTransaction (s : State) (t : Transaction) : State :=
  { s with pending := .transaction t :: s.pending }

/-- The state with the first transaction of the bytes on the port before everything else; bytes that hold no whole transaction put
nothing there. -/
def State.withBytes (s : State) (bytes : List Byte) : State :=
  match takeTransaction bytes with
  | some (t, _) => s.withTransaction t
  | none => s

end Sys2Proof.Machine
end

