-- ==== Sys2Proof/Machine/DeviceState.lean ====
section
/-! DEFINITION. The device-state transactions (spec/40_device_state.md): WR_CONFIG, RD_CONFIG, WR_GAIN, RD_GAIN, WR_TIMING, RD_TIMING,
RD_DELAY. -/

namespace Sys2Proof.Machine

/-- WR_CONFIG (R101): accepted whether or not CONFIGURED. -/
def execWrConfig (wdata : Word) (s : State) : Result :=
  match configOperand wdata with
  | some (integ, gain, pkg) =>
    answerWrite { s.regs with integ := integ, gain := gain, pkg := pkg, configured := true } s
  | none => raise .cfgError s

/-- RD_CONFIG (R102). -/
def execRdConfig (s : State) : Result := answerRead s.regs.configWord s

/-- WR_GAIN (R103): CONFIGURED is checked before the value (R216). -/
def execWrGain (wdata : Word) (s : State) : Result :=
  if s.regs.configured then
    match gainOperand wdata with
    | some gain => answerWrite { s.regs with gain := gain } s
    | none => raise .cfgError s
  else raise .notConfigured s

/-- RD_GAIN (R104). -/
def execRdGain (s : State) : Result := answerRead s.regs.gainWord s

/-- WR_TIMING (R105): CONFIGURED is checked before the value (R216); DELAY follows INTEG (R27). -/
def execWrTiming (wdata : Word) (s : State) : Result :=
  if s.regs.configured then
    match timingOperand wdata with
    | some integ => answerWrite { s.regs with integ := integ } s
    | none => raise .cfgError s
  else raise .notConfigured s

/-- RD_TIMING (R106). -/
def execRdTiming (s : State) : Result := answerRead s.regs.timingWord s

/-- RD_DELAY (R107). -/
def execRdDelay (s : State) : Result := answerRead s.regs.delayWord s

end Sys2Proof.Machine
end

