-- ==== Sys2Proof/Machine/Flags.lean ====
section
/-! DEFINITION. The LCE's flags: when a conversion saturates (R131, R132), and STATUS, in which SAT, RESULT_VALID and CONFIGURED are
read (R29). SAT and RESULT_VALID are written by a conversion's write-back (R142, LuxConversion.lean), CONFIGURED by WR_CONFIG (R101). -/

namespace Sys2Proof

/-- The clipping threshold, chosen by INTEG alone (R131). -/
def IntegTime.clip : IntegTime → Nat
  | .ms13 => 4900
  | .ms101 => 37000
  | .ms402 => 65000

namespace Machine

/-- The saturation test: a channel EXCEEDS its threshold, strictly (R132, 90_conflicts C3). -/
def saturated (integ : IntegTime) (full ir : Half) : Bool :=
  decide (integ.clip < full.toNat ∨ integ.clip < ir.toNat)

/-- STATUS as read: zext_29(0), CONFIGURED, RESULT_VALID, SAT (R29, R191). -/
def Regs.statusWord (r : Regs) : Word :=
  0#29 ++ BitVec.ofBool r.configured ++ BitVec.ofBool r.resultValid ++ BitVec.ofBool r.sat

end Machine

end Sys2Proof
end

