-- ==== Sys2Proof/Machine/LuxConversion.lean ====
section
/-! DEFINITION. CONVERT (spec/41_lux_conversion.md), stage by stage in the spec's order, on exact integers (R11, R144). Every value
stored fits its register (R143), so `BitVec.ofNat` drops nothing. -/

namespace Sys2Proof

/-- The base scale constant, chosen by INTEG (R133). -/
def IntegTime.baseScale : IntegTime → Nat
  | .ms13 => 0x7517
  | .ms101 => 0x0FE7
  | .ms402 => 1 <<< 10

namespace Machine

/-- The channel scale: at gain x1 the base scale shifted left by 4 (R134). -/
def channelScale (integ : IntegTime) (gain : Gain) : Nat :=
  match gain with
  | .x1 => integ.baseScale <<< 4
  | .x16 => integ.baseScale

/-- A channel after scaling: the exact product, shifted with truncation (R135). -/
def scaleChannel (scale : Nat) (count : Half) : Nat := (count.toNat * scale) >>> 10

/-- The raw ratio, forced to 0 where the full-spectrum channel is 0 (R136). -/
def rawRatio (fullScaled irScaled : Nat) : Nat :=
  if fullScaled = 0 then 0 else (irScaled <<< 10) / fullScaled

/-- The ratio in scale 2^9, rounded half up (R137). -/
def roundRatio (ratioRaw : Nat) : Nat := (ratioRaw + 1) >>> 1

/-- What the coefficient selector answers: what SEL records, and the coefficients b and m (R138). -/
structure Selection where
  sel : BitVec 4
  b : Half
  m : Half
  deriving DecidableEq, Repr

/-- The first entry in order whose bound is at least the ratio, if there is one (R138). -/
def scanEntries (ratio : Nat) : List (BitVec 4 × CalEntry) → Option Selection
  | [] => none
  | (number, e) :: rest => if ratio ≤ e.k.toNat then some ⟨number, e.b, e.m⟩ else scanEntries ratio rest

/-- What a ratio above every bound selects: entry 8 for T/FN/CL, the zero fall-through for CS (R138, R176). -/
def fallBack (tab : CalTable) : Package → Selection
  | .t => ⟨8, tab.e8.b, tab.e8.m⟩
  | .cs => ⟨9, 0, 0⟩

/-- The piecewise-linear coefficient selector (R138). -/
def select (tab : CalTable) (pkg : Package) (ratio : Nat) : Selection :=
  match scanEntries ratio tab.numbered with
  | some x => x
  | none => fallBack tab pkg

/-- The linear term, a signed exact integer (R139). -/
def linearTerm (fullScaled irScaled : Nat) (b m : Half) : Int :=
  (fullScaled : Int) * (b.toNat : Int) - (irScaled : Int) * (m.toNat : Int)

/-- The clamp, a true comparison on the signed value (R140). -/
def clampTerm (temp : Int) : Nat := if temp < 0 then 0 else temp.toNat

/-- Rounding bias and descaling (R141). -/
def descale (temp : Nat) : Nat := (temp + (1 <<< 13)) >>> 14

/-- The values of a conversion that is not saturated, before they are stored (R130). -/
structure Conversion where
  lux : Nat
  fullScaled : Nat
  irScaled : Nat
  ratio : Nat
  selection : Selection
  deriving DecidableEq, Repr

/-- The stages of a conversion that is not saturated, in order (R133 to R141). It reads the setting, the table of the package and the two
counts, and nothing else (R149). -/
def convertCounts (integ : IntegTime) (gain : Gain) (pkg : Package) (rom : CalRom) (full ir : Half) : Conversion :=
  let scale := channelScale integ gain
  let fullScaled := scaleChannel scale full
  let irScaled := scaleChannel scale ir
  let ratio := roundRatio (rawRatio fullScaled irScaled)
  let selection := select (rom.table pkg) pkg ratio
  let temp := linearTerm fullScaled irScaled selection.b selection.m
  { lux := descale (clampTerm temp), fullScaled := fullScaled, irScaled := irScaled, ratio := ratio, selection := selection }

/-- `write_result` (R142 (a)). -/
def Regs.writeResult (r : Regs) (c : Conversion) : Regs :=
  { r with
    lux := BitVec.ofNat 32 c.lux
    sat := false
    resultValid := true
    fullScaled := BitVec.ofNat 32 c.fullScaled
    irScaled := BitVec.ofNat 32 c.irScaled
    ratio := BitVec.ofNat 32 c.ratio
    sel := c.selection.sel
    coefB := c.selection.b
    coefM := c.selection.m }

/-- `write_saturated` (R142 (b)). -/
def Regs.writeSaturated (r : Regs) : Regs :=
  { r with
    lux := 0
    sat := true
    resultValid := true
    fullScaled := 0
    irScaled := 0
    ratio := 0
    sel := 0
    coefB := 0
    coefM := 0 }

/-- The registers an accepted CONVERT leaves (R130, R142). -/
def Regs.afterConvert (r : Regs) (rom : CalRom) (full ir : Half) : Regs :=
  if saturated r.integ full ir then r.writeSaturated
  else r.writeResult (convertCounts r.integ r.gain r.pkg rom full ir)

/-- CONVERT (R130): refused until configured, else it always performs. -/
def execConvert (full ir : Half) (s : State) : Result :=
  if s.regs.configured then answerWrite (s.regs.afterConvert s.rom full ir) s
  else raise .notConfigured s

end Machine

end Sys2Proof
end

