-- ==== Sys2Proof/Machine/Readback.lean ====
section
/-! DEFINITION. The result and table read-back (spec/43_result_readback.md): reads of the result registers, the observation registers and
the calibration ROM. None has a condition (R190). -/

namespace Sys2Proof.Machine

/-- RD_STATUS (R191). -/
def execRdStatus (s : State) : Result := answerRead s.regs.statusWord s

/-- RD_LUX (R192). -/
def execRdLux (s : State) : Result := answerRead s.regs.lux s

/-- RD_FULL_SCALED (R193). -/
def execRdFullScaled (s : State) : Result := answerRead s.regs.fullScaled s

/-- RD_IR_SCALED (R194). -/
def execRdIrScaled (s : State) : Result := answerRead s.regs.irScaled s

/-- RD_RATIO (R195). -/
def execRdRatio (s : State) : Result := answerRead s.regs.ratio s

/-- RD_SELECT (R196). -/
def execRdSelect (s : State) : Result := answerRead s.regs.selectWord s

/-- RD_COEF (R197). -/
def execRdCoef (s : State) : Result := answerRead s.regs.coefWord s

/-- RD_CAL_KB (R198): it reads the table its own index names, not that of PKG. -/
def execRdCalKb (pkg : Package) (entry : Fin 8) (s : State) : Result :=
  answerRead ((s.rom.table pkg).entry entry).kbWord s

/-- RD_CAL_M (R199). -/
def execRdCalM (pkg : Package) (entry : Fin 8) (s : State) : Result :=
  answerRead ((s.rom.table pkg).entry entry).mWord s

end Sys2Proof.Machine
end

