-- ==== Sys2Proof/Machine/Dispatch.lean ====
section
/-! DEFINITION. One arm per transaction of the opcode table. -/

namespace Sys2Proof.Machine

def exec (i : Instr) (s : State) : Host.Outcome State Fault Refusal :=
  match i with
  | .wrConfig wdata => Sys2Proof.Machine.execWrConfig wdata s
  | .rdConfig => Sys2Proof.Machine.execRdConfig s
  | .wrGain wdata => Sys2Proof.Machine.execWrGain wdata s
  | .rdGain => Sys2Proof.Machine.execRdGain s
  | .wrTiming wdata => Sys2Proof.Machine.execWrTiming wdata s
  | .rdTiming => Sys2Proof.Machine.execRdTiming s
  | .rdDelay => Sys2Proof.Machine.execRdDelay s
  | .convert full ir => Sys2Proof.Machine.execConvert full ir s
  | .rdStatus => Sys2Proof.Machine.execRdStatus s
  | .rdLux => Sys2Proof.Machine.execRdLux s
  | .rdFullScaled => Sys2Proof.Machine.execRdFullScaled s
  | .rdIrScaled => Sys2Proof.Machine.execRdIrScaled s
  | .rdRatio => Sys2Proof.Machine.execRdRatio s
  | .rdSelect => Sys2Proof.Machine.execRdSelect s
  | .rdCoef => Sys2Proof.Machine.execRdCoef s
  | .rdCalKb pkg entry => Sys2Proof.Machine.execRdCalKb pkg entry s
  | .rdCalM pkg entry => Sys2Proof.Machine.execRdCalM pkg entry s

end Sys2Proof.Machine
end

