-- ==== Sys2Proof/Machine/Step.lean ====
section
/-! DEFINITION. One step of the machine: it takes what the host issued next and performs it as one atomic step (R55, R70). -/

namespace Sys2Proof.Machine

/-- Perform one transaction (R77): its instruction, or ACCESS_ERROR where the header is ILLEGAL. -/
def perform (t : Transaction) (s : State) : Result :=
  match decode t with
  | some i => exec i s
  | none => illegalHeader s

/-- One step. Tables outside the spec are refused (R173); with nothing issued the LCE waits (R242, log entry 4); reset takes effect between
two transactions (R240); a transaction is performed whole (R55). -/
def step (s : State) : Host.Outcome State Fault Refusal :=
  if s.rom.ordered then
    match fetch s with
    | .idle => .next s
    | .reset s' => .next s'.applyReset
    | .transaction t s' => perform t s'
  else .refused .calibrationOutsideSpec

/-- The state with the instruction of the table's bits where `step` takes its next transaction (log entry 3). -/
def State.withFetchWord (s : State) (nbits w : Nat) : State := s.withBytes (tableBytes nbits w)

end Sys2Proof.Machine
end

