-- ==== Sys2Proof/Safety.lean ====
section
/-! DEFINITION. The terms claims are made in: the invariants of reachable states (R28, R39), the bounds of R143 on the result registers,
what the observation registers say about LUX, and reference notions written from the spec's words and not from the machine's: the ILLEGAL
headers as R213 lists them, the selected entry as R138 describes it, and the binary scan that R138 allows. -/

namespace Sys2Proof

/-- The headers R213 lists as ILLEGAL: unmapped indices, a read of CONVERT, a write of a read-only index. -/
def illegalHeaderNumber (h : Nat) : Bool :=
  h == 0x04 || (0x0C ≤ h && h ≤ 0x0F) || (0x30 ≤ h && h ≤ 0x7F) || h == 0x83 || (0x85 ≤ h && h ≤ 0x8B) ||
    (0x8C ≤ h && h ≤ 0x8F) || (0x90 ≤ h && h ≤ 0xAF) || (0xB0 ≤ h && h ≤ 0xFF)

namespace Machine

/-- What every reachable register file meets. -/
structure Regs.Inv (r : Regs) : Prop where
  /-- INTEG holds 0, 1 or 2 (R39). -/
  integ_legal : r.integ.code.toNat ≤ 2
  /-- DELAY is R27's table value of INTEG (R39). -/
  delay_of_integ : r.integ.delay.toNat =
    if r.integ.code = 0 then 15 else if r.integ.code = 1 then 120 else 450
  /-- SEL holds 0 to 9 (R39). -/
  sel_legal : r.sel.toNat ≤ 9
  /-- No conversion yet: the result and observation registers are 0 (R39, R31). -/
  no_result : r.resultValid = false →
    r.sat = false ∧ r.lux = 0 ∧ r.fullScaled = 0 ∧ r.irScaled = 0 ∧ r.ratio = 0 ∧ r.sel = 0 ∧ r.coefB = 0 ∧ r.coefM = 0
  /-- A saturated result carries no number (R39). -/
  saturated_zero : r.sat = true →
    r.lux = 0 ∧ r.fullScaled = 0 ∧ r.irScaled = 0 ∧ r.ratio = 0 ∧ r.sel = 0 ∧ r.coefB = 0 ∧ r.coefM = 0
  /-- Only a configured LCE has converted (R39). -/
  result_configured : r.resultValid = true → r.configured = true
  /-- Until configured, the setting holds its reset values (R28). -/
  unconfigured_reset : r.configured = false → r.gain = .x1 ∧ r.integ = .ms13 ∧ r.pkg = .cs

/-- R143's bounds, on the registers that hold the values. -/
structure Regs.Bounded (r : Regs) : Prop where
  full_scaled : r.fullScaled.toNat ≤ 2353546
  ir_scaled : r.irScaled.toNat ≤ 2353546
  ratio : r.ratio.toNat ≤ 33280000
  lux : r.lux.toNat ≤ 9414040

/-- The result registers belong to one conversion: the observation registers give back the ratio and the lux (R136, R137, R139 to R141,
R227), and SEL names where the coefficients come from (R36, R37). -/
structure State.Coherent (s : State) : Prop where
  ratio_eq : s.regs.ratio.toNat =
    ((if s.regs.fullScaled.toNat = 0 then 0 else s.regs.irScaled.toNat * 1024 / s.regs.fullScaled.toNat) + 1) / 2
  lux_eq : (s.regs.lux.toNat : Int) =
    (max 0 ((s.regs.fullScaled.toNat : Int) * s.regs.coefB.toNat - s.regs.irScaled.toNat * s.regs.coefM.toNat) + 8192) / 16384
  sel_none : s.regs.sel = 0 ↔ s.regs.resultValid = false ∨ s.regs.sat = true
  sel_entry : ∀ i : Fin 8, s.regs.sel.toNat = i.val + 1 →
    ∃ pkg, s.regs.coefB = ((s.rom.table pkg).entry i).b ∧ s.regs.coefM = ((s.rom.table pkg).entry i).m
  sel_fall_through : s.regs.sel = 9 → s.regs.coefB = 0 ∧ s.regs.coefM = 0

/-- The clipping threshold by INTEG's code, as R131 lists it. -/
def clipOfCode (code : Nat) : Nat := if code = 0 then 4900 else if code = 1 then 37000 else 65000

/-- The channel scale by INTEG's code and GAIN's bit: the six values R134 lists. -/
def scaleOfCodes (integ gain : Nat) : Nat :=
  if gain = 0 then (if integ = 0 then 479600 else if integ = 1 then 65136 else 16384)
  else (if integ = 0 then 29975 else if integ = 1 then 4071 else 1024)

/-- What R138 says of the selected entry, without scanning: the first entry whose bound is at least the ratio, numbered from 1; above every
bound, entry 8 for T/FN/CL and 9 with b = m = 0 for CS. -/
def SelectsEntry (tab : CalTable) (pkg : Package) (ratio sel : Nat) (b m : Half) : Prop :=
  (∃ i : Fin 8, ratio ≤ (tab.entry i).k.toNat ∧ (∀ j < i, (tab.entry j).k.toNat < ratio) ∧
      sel = i.val + 1 ∧ b = (tab.entry i).b ∧ m = (tab.entry i).m) ∨
    ((∀ i, (tab.entry i).k.toNat < ratio) ∧
      ((pkg = .t ∧ sel = 8 ∧ b = tab.e8.b ∧ m = tab.e8.m) ∨ (pkg = .cs ∧ sel = 9 ∧ b = 0 ∧ m = 0)))

/-- Binary search over the entries lo to hi - 1 for the first bound that is at least the ratio; 8 where there is none. -/
def binaryScan (tab : CalTable) (ratio : Nat) : (fuel lo hi : Nat) → Nat
  | 0, lo, _ => lo
  | fuel + 1, lo, hi =>
    if lo < hi then
      if ratio ≤ (tab.entry (Fin.ofNat 8 ((lo + hi) / 2))).k.toNat then binaryScan tab ratio fuel lo ((lo + hi) / 2)
      else binaryScan tab ratio fuel ((lo + hi) / 2 + 1) hi
    else lo

/-- The selector with the binary scan that R138 allows: four halvings settle eight entries. -/
def selectBinary (tab : CalTable) (pkg : Package) (ratio : Nat) : Selection :=
  let i := binaryScan tab ratio 4 0 8
  if i < 8 then ⟨BitVec.ofNat 4 (i + 1), (tab.entry (Fin.ofNat 8 i)).b, (tab.entry (Fin.ofNat 8 i)).m⟩
  else fallBack tab pkg

/-- How many of the host's events are transactions. -/
def transactionCount : List HostEvent → Nat
  | [] => 0
  | .reset :: rest => transactionCount rest
  | .transaction _ :: rest => transactionCount rest + 1

end Machine

end Sys2Proof
end

