-- ==== Sys2Proof/Certificates/Slice0/Obligations.lean ====
section
/-! DEFINITION. The statements about the LCE for the provers. Each is a claim about every state, every operand and, where it says nothing
else, every calibration table; each docstring names the rule of spec/ it formalises. -/

open Sys2Proof Sys2Proof.Machine

/-! ### Encoding -/

/-- R77: the header map, row by row, for every write word and every calibration index; every other index is ILLEGAL, and an ILLEGAL
transaction is performed as raise ACCESS_ERROR. The counts are the rule's own: 4 write headers, 43 read headers, 209 ILLEGAL. -/
def Obligations.DecodeFollowsHeaderMap : Prop :=
  decode (.read 0x00) = some .rdConfig ∧ decode (.read 0x01) = some .rdGain ∧ decode (.read 0x02) = some .rdTiming ∧
  decode (.read 0x03) = some .rdDelay ∧ decode (.read 0x05) = some .rdStatus ∧ decode (.read 0x06) = some .rdLux ∧
  decode (.read 0x07) = some .rdFullScaled ∧ decode (.read 0x08) = some .rdIrScaled ∧ decode (.read 0x09) = some .rdRatio ∧
  decode (.read 0x0A) = some .rdSelect ∧ decode (.read 0x0B) = some .rdCoef ∧
  (∀ p e : Nat, p < 2 → e < 8 →
    decode (.read (BitVec.ofNat 7 (0x10 + 8 * p + e))) =
      some (.rdCalKb (if p = 0 then .cs else .t) (Fin.ofNat 8 e)) ∧
    decode (.read (BitVec.ofNat 7 (0x20 + 8 * p + e))) =
      some (.rdCalM (if p = 0 then .cs else .t) (Fin.ofNat 8 e))) ∧
  (∀ idx : Index, idx.toNat = 0x04 ∨ (0x0C ≤ idx.toNat ∧ idx.toNat ≤ 0x0F) ∨ 0x30 ≤ idx.toNat →
    decode (.read idx) = none) ∧
  (∀ w : Word, decode (.write 0x00 w) = some (.wrConfig w) ∧ decode (.write 0x01 w) = some (.wrGain w) ∧
    decode (.write 0x02 w) = some (.wrTiming w) ∧
    decode (.write 0x04 w) = some (.convert (BitVec.ofNat 16 w.toNat) (BitVec.ofNat 16 (w.toNat / 2 ^ 16)))) ∧
  (∀ (idx : Index) (w : Word), idx.toNat = 0x03 ∨ 0x05 ≤ idx.toNat → decode (.write idx w) = none) ∧
  (∀ w : Word,
    ((List.range 128).filter fun n => (decode (.write (BitVec.ofNat 7 n) w)).isSome).length = 4 ∧
    ((List.range 128).filter fun n => (decode (.read (BitVec.ofNat 7 n))).isSome).length = 43 ∧
    ((List.range 128).filter fun n => (decode (.write (BitVec.ofNat 7 n) w)).isNone).length +
      ((List.range 128).filter fun n => (decode (.read (BitVec.ofNat 7 n))).isNone).length = 209) ∧
  (∀ (t : Transaction) (s : State), decode t = none →
    perform t s = .next { s with responses := s.responses ++ [⟨.accessError, 0⟩] })

/-- Headers and words written out from the encodings of R71, R73 and R75 decode to what they stand for. -/
def Obligations.WrittenOutWordsDecode : Prop :=
  decodeBytes [0x80, 0x10, 0x01, 0x00, 0x00] = .ok (.wrConfig 0x110, []) ∧
  decodeBytes [0x81, 0x10, 0x00, 0x00, 0x00] = .ok (.wrGain 0x10, []) ∧
  decodeBytes [0x84, 0x00, 0x01, 0x80, 0x00, 0x05] = .ok (.convert 0x100 0x080, [0x05]) ∧
  decodeBytes [0x1B] = .ok (.rdCalKb .t 3, []) ∧
  decodeBytes [0x20] = .ok (.rdCalM .cs 0, [])

/-- R71, R73 to R77: on a byte-wide link every instruction, at every operand, is read back from its bytes whatever follows them. -/
def Obligations.DecodeReadsBackEncodedBytes : Prop :=
  ∀ (i : Instr) (rest : List Byte), decodeBytes (encodeBytes i ++ rest) = .ok (i, rest)

/-- R77: each header has one meaning. The bytes that decode to an instruction are its encoding, no other. -/
def Obligations.DecodedBytesAreTheEncoding : Prop :=
  ∀ (bytes : List Byte) (i : Instr) (rest : List Byte),
    decodeBytes bytes = .ok (i, rest) → bytes = encodeBytes i ++ rest

/-- R71: a transaction's length is known from H[7] alone: 1 byte for a read, 5 for a write, and there is no other; the header is the first
byte, and a write's word has its least significant byte first (R52). The model's own, of log entry 10: the last clause, that a write cut
short gives no transaction (DESIGN CHOICE), and the second for an ILLEGAL header, whose data bytes belong to it too (DEDUCED). -/
def Obligations.HeaderBitGivesLength : Prop :=
  ∀ (h : Byte) (tail : List Byte),
    (h.toNat < 128 → ∃ idx, takeTransaction (h :: tail) = some (.read idx, tail) ∧ (Transaction.read idx).header = h) ∧
    (128 ≤ h.toNat → ∀ (b0 b1 b2 b3 : Byte) (rest : List Byte), tail = b0 :: b1 :: b2 :: b3 :: rest →
      ∃ idx w, takeTransaction (h :: tail) = some (.write idx w, rest) ∧ (Transaction.write idx w).header = h ∧
        w.toNat = b0.toNat + 2 ^ 8 * b1.toNat + 2 ^ 16 * b2.toNat + 2 ^ 24 * b3.toNat) ∧
    (128 ≤ h.toNat → tail.length < 4 → takeTransaction (h :: tail) = none)

/-- R72: the four response codes' values. -/
def Obligations.ResponseCodeValues : Prop :=
  RespCode.okay.bits = 0b00 ∧ RespCode.cfgError.bits = 0b01 ∧ RespCode.notConfigured.bits = 0b10 ∧
    RespCode.accessError.bits = 0b11

/-! ### The step -/

/-- R70, R77: the step at a state whose port holds a transaction that decodes to i is exec of i at the state with that transaction taken. -/
def Obligations.StepRunsDecodedTransaction : Prop :=
  ∀ (s : State) (t : Transaction) (rest : List HostEvent) (i : Instr),
    s.rom.ordered = true → s.pending = .transaction t :: rest → decode t = some i →
      step s = exec i { s with pending := rest }

/-- R213: ACCESS_ERROR is raised by exactly the 209 headers that R213 lists; such a transaction changes nothing but the port. -/
def Obligations.IllegalHeadersAnswerAccessError : Prop :=
  ((List.range 256).filter illegalHeaderNumber).length = 209 ∧
  ∀ t : Transaction,
    (decode t = none ↔ illegalHeaderNumber t.header.toNat = true) ∧
    ∀ (s : State) (rest : List HostEvent),
      s.rom.ordered = true → s.pending = .transaction t :: rest → illegalHeaderNumber t.header.toNat = true →
        step s = .next { s with pending := rest, responses := s.responses ++ [⟨.accessError, 0⟩] }

/-- R242, the model's choice (log entry 4): with nothing issued the LCE waits, and its step leaves the state as it is. -/
def Obligations.IdlePortWaits : Prop :=
  ∀ s : State, s.rom.ordered = true → s.pending = [] → step s = .next s

/-- R173, the model's choice of where to refuse (log entry 2): a pair of tables whose bounds are not non-decreasing is refused by name, and
no other pair is. -/
def Obligations.DecreasingBoundsRefused : Prop :=
  ∀ s : State,
    ((∃ (pkg : Package) (i j : Fin 8), i < j ∧ ((s.rom.table pkg).entry j).k.toNat < ((s.rom.table pkg).entry i).k.toNat) →
      step s = .refused .calibrationOutsideSpec) ∧
    ((∀ (pkg : Package) (i j : Fin 8), i < j → ((s.rom.table pkg).entry i).k.toNat ≤ ((s.rom.table pkg).entry j).k.toNat) →
      ∃ t, step s = .next t)

/-- R240, R241: reset sets every register to its reset value, leaves the calibration ROM, takes effect between two transactions (it is an
event of its own) and is the same event as power-on; after it STATUS and CONFIG read 0 and DELAY reads 15. Neither rule speaks of the
port: that reset gives no response and leaves the later events pending is the model's deduction (DEDUCED, log entry 7). -/
def Obligations.ResetSetsEveryRegister : Prop :=
  ∃ r : Regs,
    (r.configured = false ∧ r.gain.bit = 0 ∧ r.integ.code = 0 ∧ r.integ.delay = 15 ∧ r.pkg.bit = 0 ∧ r.sat = false ∧
      r.resultValid = false ∧ r.lux = 0 ∧ r.fullScaled = 0 ∧ r.irScaled = 0 ∧ r.ratio = 0 ∧ r.sel = 0 ∧ r.coefB = 0 ∧
      r.coefM = 0) ∧
    r.statusWord = 0x00000000 ∧ r.configWord = 0x00000000 ∧ State.reset.regs = r ∧
    ∀ (s : State) (rest : List HostEvent), s.rom.ordered = true → s.pending = .reset :: rest →
      step s = .next { regs := r, rom := s.rom, pending := rest, responses := s.responses }

/-- R172, R174: the default tables, which State.reset holds (PRESUMED, log entry 1), with the port's two ends empty (DESIGN CHOICE, log
entries 3 and 5): the calibration ports of the state after reset read what V76 lists. -/
def Obligations.ResetHoldsDefaultTables : Prop :=
  State.reset.pending = [] ∧ State.reset.responses = [] ∧
  (∀ e : Fin 8, ((State.reset.rom.table .cs).entry e).kbWord =
    [0x02040043, 0x02280085, 0x025300C8, 0x0282010A, 0x0177014D, 0x0101019A, 0x0037029A, 0x0000029A].getD e.val 0) ∧
  (∀ e : Fin 8, ((State.reset.rom.table .cs).entry e).mWord =
    [0x1AD, 0x2C1, 0x363, 0x3DF, 0x1DD, 0x127, 0x02B, 0x000].getD e.val 0) ∧
  (∀ e : Fin 8, ((State.reset.rom.table .t).entry e).kbWord =
    [0x01F20040, 0x02140080, 0x023F00C0, 0x02700100, 0x016F0138, 0x00D2019A, 0x0018029A, 0x0000029A].getD e.val 0) ∧
  (∀ e : Fin 8, ((State.reset.rom.table .t).entry e).mWord =
    [0x1BE, 0x2D1, 0x37B, 0x3FE, 0x1FC, 0x0FB, 0x012, 0x000].getD e.val 0)

/-- R251: exactly one response per transaction. Every transaction, legal or not, takes one event from the port and gives one response,
and the ROM is untouched. -/
def Obligations.OneResponsePerTransaction : Prop :=
  ∀ (s : State) (t : Transaction) (rest : List HostEvent), s.rom.ordered = true → s.pending = .transaction t :: rest →
    ∃ u r, step s = .next u ∧ u.pending = rest ∧ u.responses = s.responses ++ [r] ∧ u.rom = s.rom

/-- R250, R252: every issued transaction completes. As many steps as the host issued events take them all, each transaction has its one
response after the earlier ones, and nothing is left pending. The model's own: that a reset among them gives no response and drops no later
event (DEDUCED, log entry 7), and the lists that hold events and responses (DESIGN CHOICE, log entries 3 and 5). -/
def Obligations.EveryIssuedTransactionCompletes : Prop :=
  ∀ s : State, s.rom.ordered = true →
    ∃ (u : State) (given : List Response),
      Host.Core.run core s.pending.length s = .next u ∧ u.pending = [] ∧ u.responses = s.responses ++ given ∧
        given.length = transactionCount s.pending

/-- R59: a transaction reads the state left by the earlier ones and by none later. What the host issues after the event that a step takes
does not influence that step. R59 speaks of transactions: that a reset event leaves the later ones pending too is the model's deduction
(DEDUCED, log entry 7), and the list that holds them its own choice (DESIGN CHOICE, log entry 3). -/
def Obligations.LaterEventsDoNotInfluenceTheStep : Prop :=
  ∀ (s u : State) (e : HostEvent) (rest rest' : List HostEvent), s.pending = e :: rest → step s = .next u →
    u.pending = rest ∧ step { s with pending := e :: rest' } = .next { u with pending := rest' }

/-! ### Errors -/

/-- R211, R212: NOT_CONFIGURED is raised by WR_GAIN, WR_TIMING and CONVERT exactly when CONFIGURED = 0, CFG_ERROR by the three writes of
the setting exactly on the values R211 lists (once NOT_CONFIGURED does not apply, R216), no instruction raises anything else, and one that
raises leaves the state as it was. -/
def Obligations.ErrorsRaisedExactlyWhen : Prop :=
  ∀ (i : Instr) (s : State), ∃ t r, exec i s = .next t ∧ t.responses = s.responses ++ [r] ∧
    (r.code = .notConfigured ↔
      s.regs.configured = false ∧ ((∃ w, i = .wrGain w) ∨ (∃ w, i = .wrTiming w) ∨ ∃ full ir, i = .convert full ir)) ∧
    (r.code = .cfgError ↔
      (∃ w : Word, i = .wrConfig w ∧ (2 < w.toNat % 16 ∨ w.toNat / 32 % 8 ≠ 0 ∨ w.toNat / 512 ≠ 0)) ∨
      (∃ w : Word, i = .wrGain w ∧ s.regs.configured = true ∧ w.toNat ≠ 0x00 ∧ w.toNat ≠ 0x10) ∨
      (∃ w : Word, i = .wrTiming w ∧ s.regs.configured = true ∧ 2 < w.toNat)) ∧
    r.code ≠ .accessError ∧
    (r.code ≠ .okay → r.rdata = 0 ∧ t = { s with responses := s.responses ++ [r] })

/-- R216: the header is looked at before the state and the state before the value. An ILLEGAL header is ACCESS_ERROR in every state, and
while CONFIGURED = 0 every word of WR_GAIN, WR_TIMING and CONVERT is NOT_CONFIGURED, an illegal one too. -/
def Obligations.ErrorPriority : Prop :=
  ∀ (s : State) (t : Transaction) (rest : List HostEvent), s.rom.ordered = true → s.pending = .transaction t :: rest →
    (decode t = none → step s = .next { s with pending := rest, responses := s.responses ++ [⟨.accessError, 0⟩] }) ∧
    (s.regs.configured = false → ∀ w : Word, t = .write 0x01 w ∨ t = .write 0x02 w ∨ t = .write 0x04 w →
      step s = .next { s with pending := rest, responses := s.responses ++ [⟨.notConfigured, 0⟩] })

/-- R215: a refused transaction answers read data 0 and makes none of its writes, and no error state persists: the next event has the
outcome it would have had, had the refused transaction not been issued (only the responses given before differ). -/
def Obligations.RefusalIsPreciseAndLeavesNoTrace : Prop :=
  ∀ (s : State) (t : Transaction) (rest : List HostEvent) (u : State) (r : Response),
    s.rom.ordered = true → s.pending = .transaction t :: rest → step s = .next u → u.responses = s.responses ++ [r] →
      r.code ≠ .okay →
        u = { s with pending := rest, responses := s.responses ++ [⟨r.code, 0⟩] } ∧
        ∀ v : State, step { s with pending := rest } = .next v →
          ∃ given, v.responses = s.responses ++ given ∧ step u = .next { v with responses := u.responses ++ given }

/-! ### The device state -/

/-- R101: WR_CONFIG, on every word and in every state: its fields, DELAY with them (R27), its CFG_ERROR, and everything it leaves alone. -/
def Obligations.WrConfigWritesDeviceState : Prop :=
  ∀ (s : State) (w : Word),
    (2 < w.toNat % 16 ∨ w.toNat / 32 % 8 ≠ 0 ∨ w.toNat / 512 ≠ 0 →
      exec (.wrConfig w) s = .next { s with responses := s.responses ++ [⟨.cfgError, 0⟩] }) ∧
    (w.toNat % 16 ≤ 2 ∧ w.toNat / 32 % 8 = 0 ∧ w.toNat / 512 = 0 →
      ∃ (integ : IntegTime) (gain : Gain) (pkg : Package),
        integ.code.toNat = w.toNat % 16 ∧ gain.bit.toNat = w.toNat / 16 % 2 ∧ pkg.bit.toNat = w.toNat / 256 % 2 ∧
        integ.delay.toNat = (if w.toNat % 16 = 0 then 15 else if w.toNat % 16 = 1 then 120 else 450) ∧
        exec (.wrConfig w) s = .next
          { s with
            regs := { s.regs with integ := integ, gain := gain, pkg := pkg, configured := true }
            responses := s.responses ++ [⟨.okay, 0⟩] })

/-- R103: WR_GAIN, on every word and in every state. -/
def Obligations.WrGainWritesGain : Prop :=
  ∀ (s : State) (w : Word),
    (s.regs.configured = false →
      exec (.wrGain w) s = .next { s with responses := s.responses ++ [⟨.notConfigured, 0⟩] }) ∧
    (s.regs.configured = true → w = 0x00000000 →
      exec (.wrGain w) s = .next
        { s with regs := { s.regs with gain := .x1 }, responses := s.responses ++ [⟨.okay, 0⟩] }) ∧
    (s.regs.configured = true → w = 0x00000010 →
      exec (.wrGain w) s = .next
        { s with regs := { s.regs with gain := .x16 }, responses := s.responses ++ [⟨.okay, 0⟩] }) ∧
    (s.regs.configured = true → w ≠ 0x00000000 → w ≠ 0x00000010 →
      exec (.wrGain w) s = .next { s with responses := s.responses ++ [⟨.cfgError, 0⟩] })

/-- R105: WR_TIMING, on every word and in every state; DELAY is R27's table value of the time written. -/
def Obligations.WrTimingWritesTiming : Prop :=
  ∀ (s : State) (w : Word),
    (s.regs.configured = false →
      exec (.wrTiming w) s = .next { s with responses := s.responses ++ [⟨.notConfigured, 0⟩] }) ∧
    (s.regs.configured = true → 2 < w.toNat →
      exec (.wrTiming w) s = .next { s with responses := s.responses ++ [⟨.cfgError, 0⟩] }) ∧
    (s.regs.configured = true → w.toNat ≤ 2 →
      ∃ integ : IntegTime, integ.code.toNat = w.toNat ∧
        integ.delay.toNat = (if w.toNat = 0 then 15 else if w.toNat = 1 then 120 else 450) ∧
        exec (.wrTiming w) s = .next
          { s with regs := { s.regs with integ := integ }, responses := s.responses ++ [⟨.okay, 0⟩] })

/-- R102, R104, R106, R107: the reads of the device state, in every state, configured or not, with their whole next state. -/
def Obligations.DeviceStateReads : Prop :=
  ∀ s : State,
    exec .rdConfig s = .next { s with responses := s.responses ++
      [⟨.okay, BitVec.ofNat 32 (256 * s.regs.pkg.bit.toNat + 16 * s.regs.gain.bit.toNat + s.regs.integ.code.toNat)⟩] } ∧
    exec .rdGain s = .next { s with responses := s.responses ++
      [⟨.okay, if s.regs.gain = .x1 then 0x00 else 0x10⟩] } ∧
    exec .rdTiming s = .next { s with responses := s.responses ++
      [⟨.okay, BitVec.ofNat 32 s.regs.integ.code.toNat⟩] } ∧
    exec .rdDelay s = .next { s with responses := s.responses ++
      [⟨.okay, if s.regs.integ.code = 0 then 15 else if s.regs.integ.code = 1 then 120 else 450⟩] }

/-- R74, R78: on a configured LCE an instruction is answered OKAY exactly when its operand is one of the words R74 lists as legal. -/
def Obligations.ExactlyLegalWordsAccepted : Prop :=
  ∀ (i : Instr) (s : State), s.regs.configured = true →
    ∃ t r, exec i s = .next t ∧ t.responses = s.responses ++ [r] ∧ (r.code = .okay ↔ i.wellFormed = true)

/-- R108: an accepted write of the setting, performed again, is accepted again and changes nothing more. -/
def Obligations.SettingWritesAreIdempotent : Prop :=
  ∀ (s : State) (i : Instr) (t : State), s.regs.configured = true →
    ((∃ w, i = .wrConfig w) ∨ (∃ w, i = .wrGain w) ∨ ∃ w, i = .wrTiming w) →
    exec i s = .next t → t.responses = s.responses ++ [⟨.okay, 0⟩] →
      exec i t = .next { t with responses := t.responses ++ [⟨.okay, 0⟩] }

/-- R104, R106 (corner cases), R102: the word a read of the setting returns, written back, changes nothing. -/
def Obligations.ReadBackSettingRewritesItself : Prop :=
  ∀ (s t : State) (w : Word), s.regs.configured = true → t.responses = s.responses ++ [⟨.okay, w⟩] →
    (exec .rdGain s = .next t → exec (.wrGain w) s = .next { s with responses := s.responses ++ [⟨.okay, 0⟩] }) ∧
    (exec .rdTiming s = .next t → exec (.wrTiming w) s = .next { s with responses := s.responses ++ [⟨.okay, 0⟩] }) ∧
    (exec .rdConfig s = .next t → exec (.wrConfig w) s = .next { s with responses := s.responses ++ [⟨.okay, 0⟩] })

/-- R100 (a), R26, R30, R28: which instructions write what. PKG and CONFIGURED are written by WR_CONFIG alone, GAIN by it and WR_GAIN,
INTEG by it and WR_TIMING, every result register by CONVERT alone; the ROM and the host's events by none. -/
def Obligations.EachRegisterHasItsWriters : Prop :=
  ∀ (i : Instr) (s t : State), exec i s = .next t →
    (t.regs.pkg ≠ s.regs.pkg ∨ t.regs.configured ≠ s.regs.configured → ∃ w, i = .wrConfig w) ∧
    (t.regs.gain ≠ s.regs.gain → (∃ w, i = .wrConfig w) ∨ ∃ w, i = .wrGain w) ∧
    (t.regs.integ ≠ s.regs.integ → (∃ w, i = .wrConfig w) ∨ ∃ w, i = .wrTiming w) ∧
    (t.regs.sat ≠ s.regs.sat ∨ t.regs.resultValid ≠ s.regs.resultValid ∨ t.regs.lux ≠ s.regs.lux ∨
        t.regs.fullScaled ≠ s.regs.fullScaled ∨ t.regs.irScaled ≠ s.regs.irScaled ∨ t.regs.ratio ≠ s.regs.ratio ∨
        t.regs.sel ≠ s.regs.sel ∨ t.regs.coefB ≠ s.regs.coefB ∨ t.regs.coefM ≠ s.regs.coefM →
      ∃ full ir, i = .convert full ir) ∧
    t.rom = s.rom ∧ t.pending = s.pending

/-! ### Conversion -/

/-- R131, R132: an accepted CONVERT saturates exactly when a count exceeds the threshold of INTEG, strictly, whatever gain and package. -/
def Obligations.SaturatesExactlyAboveThreshold : Prop :=
  ∀ (s : State) (full ir : Half), s.regs.configured = true →
    ∃ t, exec (.convert full ir) s = .next t ∧
      (t.regs.sat = true ↔
        clipOfCode s.regs.integ.code.toNat < full.toNat ∨ clipOfCode s.regs.integ.code.toNat < ir.toNat)

/-- R142 (b): the whole next state of a CONVERT that saturates. -/
def Obligations.SaturatedConvertWritesZeros : Prop :=
  ∀ (s : State) (full ir : Half), s.regs.configured = true →
    (clipOfCode s.regs.integ.code.toNat < full.toNat ∨ clipOfCode s.regs.integ.code.toNat < ir.toNat) →
      exec (.convert full ir) s = .next
        { s with
          regs :=
            { s.regs with
              sat := true, resultValid := true, lux := 0, fullScaled := 0, irScaled := 0, ratio := 0, sel := 0, coefB := 0,
              coefM := 0 }
          responses := s.responses ++ [⟨.okay, 0⟩] }

/-- R130, R133 to R142 (a): the whole next state of a CONVERT that does not saturate, in exact arithmetic, each register equal to its
exact value and none truncated (R143). -/
def Obligations.ConvertComputesLux : Prop :=
  ∀ (s : State) (full ir : Half), s.regs.configured = true →
    full.toNat ≤ clipOfCode s.regs.integ.code.toNat → ir.toNat ≤ clipOfCode s.regs.integ.code.toNat →
      ∃ (fs irs ratio sel : Nat) (b m : Half) (t : State),
        fs = full.toNat * scaleOfCodes s.regs.integ.code.toNat s.regs.gain.bit.toNat / 1024 ∧
        irs = ir.toNat * scaleOfCodes s.regs.integ.code.toNat s.regs.gain.bit.toNat / 1024 ∧
        ratio = ((if fs = 0 then 0 else irs * 1024 / fs) + 1) / 2 ∧
        SelectsEntry (s.rom.table s.regs.pkg) s.regs.pkg ratio sel b m ∧
        exec (.convert full ir) s = .next t ∧
        (t.regs.lux.toNat : Int) = (max 0 ((fs : Int) * b.toNat - irs * m.toNat) + 8192) / 16384 ∧
        t.regs.fullScaled.toNat = fs ∧ t.regs.irScaled.toNat = irs ∧ t.regs.ratio.toNat = ratio ∧ t.regs.sel.toNat = sel ∧
        t.regs.coefB = b ∧ t.regs.coefM = m ∧ t.regs.sat = false ∧ t.regs.resultValid = true ∧
        t.regs.configured = s.regs.configured ∧ t.regs.gain = s.regs.gain ∧ t.regs.integ = s.regs.integ ∧
        t.regs.pkg = s.regs.pkg ∧ t.rom = s.rom ∧ t.pending = s.pending ∧ t.responses = s.responses ++ [⟨.okay, 0⟩]

/-- R138: the selector picks the entry the rule describes, for every table, package and ratio, and the rule describes only that one. -/
def Obligations.SelectorPicksFirstBound : Prop :=
  ∀ (tab : CalTable) (pkg : Package) (ratio sel : Nat) (b m : Half),
    SelectsEntry tab pkg ratio sel b m ↔
      sel = (select tab pkg ratio).sel.toNat ∧ b = (select tab pkg ratio).b ∧ m = (select tab pkg ratio).m

/-- R138, R173: for tables with non-decreasing bounds the linear scan and the binary scan select the same. -/
def Obligations.BinaryScanSelectsTheSame : Prop :=
  ∀ (tab : CalTable) (pkg : Package) (ratio : Nat), tab.ordered = true → selectBinary tab pkg ratio = select tab pkg ratio

/-- R146: under one configuration a larger or equal ratio selects a higher or equal SEL. -/
def Obligations.SelectionIsMonotone : Prop :=
  ∀ (s t u : State) (full₁ ir₁ full₂ ir₂ : Half),
    exec (.convert full₁ ir₁) s = .next t → exec (.convert full₂ ir₂) s = .next u → s.regs.configured = true →
    t.regs.sat = false → u.regs.sat = false → t.regs.ratio.toNat ≤ u.regs.ratio.toNat →
      t.regs.sel.toNat ≤ u.regs.sel.toNat

/-- R145: with the full-spectrum channel dark there is no division: ratio 0, entry 1, lux 0, not saturated. -/
def Obligations.DarkFullChannelGivesZeroLux : Prop :=
  ∀ (s : State) (ir : Half), s.regs.configured = true → ir.toNat ≤ clipOfCode s.regs.integ.code.toNat →
    ∃ t, exec (.convert 0 ir) s = .next t ∧ t.regs.ratio = 0 ∧ t.regs.sel = 1 ∧ t.regs.coefB = (s.rom.table s.regs.pkg).e1.b ∧
      t.regs.coefM = (s.rom.table s.regs.pkg).e1.m ∧
      (t.regs.fullScaled.toNat : Int) * t.regs.coefB.toNat - t.regs.irScaled.toNat * t.regs.coefM.toNat =
        -(t.regs.irScaled.toNat * t.regs.coefM.toNat : Int) ∧
      t.regs.lux = 0 ∧ t.regs.sat = false

/-- R143: the widths. Every intermediate of a conversion that does not saturate is within the rule's bound, for all tables of 16-bit
values and, tighter, for the default tables; the largest raw ratio is reached, and a lux above 65535 too, so 16 bits would not do. -/
def Obligations.ConversionWidths : Prop :=
  ∀ (integ : IntegTime) (gain : Gain) (pkg : Package) (full ir : Half),
    full.toNat ≤ clipOfCode integ.code.toNat → ir.toNat ≤ clipOfCode integ.code.toNat →
    full.toNat * channelScale integ gain ≤ 2410032000 ∧ ir.toNat * channelScale integ gain ≤ 2410032000 ∧
    (∀ (rom : CalRom) (c : Conversion), c = convertCounts integ gain pkg rom full ir →
      c.fullScaled ≤ 2353546 ∧ c.irScaled ≤ 2353546 ∧ c.irScaled * 1024 ≤ 2410031104 ∧
      rawRatio c.fullScaled c.irScaled ≤ 66560000 ∧ c.ratio ≤ 33280000 ∧
      c.fullScaled * c.selection.b.toNat ≤ 154239637110 ∧ c.irScaled * c.selection.m.toNat ≤ 154239637110 ∧
      c.lux ≤ 9414040) ∧
    (∀ c : Conversion, c = convertCounts integ gain pkg defaultRom full ir →
      c.fullScaled * c.selection.b.toNat ≤ 1510976532 ∧ c.irScaled * c.selection.m.toNat ≤ 2405324012 ∧ c.lux ≤ 92223) ∧
    rawRatio (scaleChannel (channelScale .ms402 gain) 1) (scaleChannel (channelScale .ms402 gain) 65000) = 66560000 ∧
    65535 < (convertCounts .ms101 .x1 pkg defaultRom 37000 0).lux ∧ 65535 < (convertCounts .ms13 .x1 pkg defaultRom 4900 0).lux

/-- R149: what an accepted CONVERT leaves in the result registers depends on the counts, the setting and the two tables, and on nothing else
in the state. -/
def Obligations.ConversionReadsOnlyItsInputs : Prop :=
  ∀ (s₁ s₂ t₁ : State) (full ir : Half),
    s₁.regs.configured = true → s₂.regs.configured = true → s₁.regs.integ = s₂.regs.integ → s₁.regs.gain = s₂.regs.gain →
    s₁.regs.pkg = s₂.regs.pkg → s₁.rom = s₂.rom → exec (.convert full ir) s₁ = .next t₁ →
      ∃ t₂, exec (.convert full ir) s₂ = .next t₂ ∧ t₁.regs = t₂.regs

/-- R132: a saturated result depends on INTEG and the counts only, not on gain or package or tables. -/
def Obligations.SaturationIgnoresGainAndPackage : Prop :=
  ∀ (s₁ s₂ t₁ : State) (full ir : Half),
    s₁.regs.configured = true → s₂.regs.configured = true → s₁.regs.integ = s₂.regs.integ →
    exec (.convert full ir) s₁ = .next t₁ →
      ∃ t₂, exec (.convert full ir) s₂ = .next t₂ ∧ t₁.regs.sat = t₂.regs.sat ∧
        (t₁.regs.sat = true →
          t₁.regs = { t₂.regs with gain := s₁.regs.gain, pkg := s₁.regs.pkg })

/-- R177: with K7 = K8, and non-decreasing bounds, entry 8 is reached only by the T/FN/CL fall-back, as with both default tables; with K7 < K8
the scan selects entry 8 for K7 < ratio ≤ K8 in both packages. -/
def Obligations.EntryEightReached : Prop :=
  defaultCalCs.e7.k = defaultCalCs.e8.k ∧ defaultCalT.e7.k = defaultCalT.e8.k ∧
  ∀ (tab : CalTable) (pkg : Package) (ratio : Nat), tab.ordered = true →
    (tab.e7.k = tab.e8.k → ((select tab pkg ratio).sel = 8 ↔ pkg = .t ∧ tab.e8.k.toNat < ratio)) ∧
    (tab.e7.k.toNat < ratio → ratio ≤ tab.e8.k.toNat → select tab pkg ratio = ⟨8, tab.e8.b, tab.e8.m⟩)

/-- R176: for a ratio above K8, T/FN/CL yields its entry 8 and CS yields b = m = 0 with no entry; with the default tables both give
b = m = 0 and lux 0 and differ only in SEL. -/
def Obligations.PackagesDifferAboveEveryBound : Prop :=
  (∀ (tab : CalTable) (ratio : Nat), tab.ordered = true → tab.e8.k.toNat < ratio →
    select tab .t ratio = ⟨8, tab.e8.b, tab.e8.m⟩ ∧ select tab .cs ratio = ⟨9, 0, 0⟩) ∧
  ∀ (s t : State) (full ir : Half), s.regs.configured = true → s.rom = defaultRom → exec (.convert full ir) s = .next t →
    t.regs.sat = false → 0x029A < t.regs.ratio.toNat →
      t.regs.coefB = 0 ∧ t.regs.coefM = 0 ∧ t.regs.lux = 0 ∧ t.regs.sel = (if s.regs.pkg = .t then 8 else 9)

/-- R249: a CONVERT right after an accepted WR_TIMING uses the new integration time and its threshold. -/
def Obligations.ConvertSeesNewTiming : Prop :=
  ∀ (s : State) (w : Word) (full ir : Half), s.regs.configured = true → w.toNat ≤ 2 →
    ∃ t u, exec (.wrTiming w) s = .next t ∧ exec (.convert full ir) t = .next u ∧ u.regs.integ.code.toNat = w.toNat ∧
      (u.regs.sat = true ↔ clipOfCode w.toNat < full.toNat ∨ clipOfCode w.toNat < ir.toNat)

/-! ### Read-back -/

/-- R191: RD_STATUS in every state, and, under the invariants of R39, the four values it can return. -/
def Obligations.StatusReadsItsFlags : Prop :=
  ∀ s : State, ∃ w : Word,
    w = BitVec.ofNat 32 (4 * s.regs.configured.toNat + 2 * s.regs.resultValid.toNat + s.regs.sat.toNat) ∧
    exec .rdStatus s = .next { s with responses := s.responses ++ [⟨.okay, w⟩] } ∧
    (s.regs.Inv → w = 0x0 ∨ w = 0x4 ∨ w = 0x6 ∨ w = 0x7)

/-- R192 to R195: the reads of the result and observation registers in every state. -/
def Obligations.ResultReadsReturnTheirRegisters : Prop :=
  ∀ s : State,
    exec .rdLux s = .next { s with responses := s.responses ++ [⟨.okay, s.regs.lux⟩] } ∧
    exec .rdFullScaled s = .next { s with responses := s.responses ++ [⟨.okay, s.regs.fullScaled⟩] } ∧
    exec .rdIrScaled s = .next { s with responses := s.responses ++ [⟨.okay, s.regs.irScaled⟩] } ∧
    exec .rdRatio s = .next { s with responses := s.responses ++ [⟨.okay, s.regs.ratio⟩] }

/-- R196, R197: RD_SELECT and RD_COEF in every state. -/
def Obligations.SelectionReads : Prop :=
  ∀ s : State,
    exec .rdSelect s = .next { s with responses := s.responses ++ [⟨.okay, BitVec.ofNat 32 s.regs.sel.toNat⟩] } ∧
    exec .rdCoef s = .next { s with responses := s.responses ++
      [⟨.okay, BitVec.ofNat 32 (65536 * s.regs.coefM.toNat + s.regs.coefB.toNat)⟩] }

/-- R198, R199: the calibration ports in every state, for every package and entry; they do not depend on PKG. -/
def Obligations.CalibrationReads : Prop :=
  ∀ (s : State) (e : Fin 8),
    exec (.rdCalKb .cs e) s = .next { s with responses := s.responses ++
      [⟨.okay, BitVec.ofNat 32 (65536 * (s.rom.cs.entry e).b.toNat + (s.rom.cs.entry e).k.toNat)⟩] } ∧
    exec (.rdCalKb .t e) s = .next { s with responses := s.responses ++
      [⟨.okay, BitVec.ofNat 32 (65536 * (s.rom.t.entry e).b.toNat + (s.rom.t.entry e).k.toNat)⟩] } ∧
    exec (.rdCalM .cs e) s = .next { s with responses := s.responses ++
      [⟨.okay, BitVec.ofNat 32 (s.rom.cs.entry e).m.toNat⟩] } ∧
    exec (.rdCalM .t e) s = .next { s with responses := s.responses ++
      [⟨.okay, BitVec.ofNat 32 (s.rom.t.entry e).m.toNat⟩] }

/-- R190, R56: every transaction of format RD is accepted in every state and writes nothing, and two reads with the same registers and ROM
return the same word. -/
def Obligations.ReadsChangeNothing : Prop :=
  ∀ (i : Instr) (idx : Index) (s : State), encode i = .read idx →
    ∃ w : Word, ∀ s' : State, s'.regs = s.regs → s'.rom = s.rom →
      exec i s' = .next { s' with responses := s'.responses ++ [⟨.okay, w⟩] }

/-- R44: the reserved bits of every register read 0. -/
def Obligations.ReservedBitsReadZero : Prop :=
  ∀ (s : State) (i : Instr) (reserved : Word),
    (i, reserved) ∈ [(Instr.rdConfig, 0xFFFFFEE0), (.rdGain, 0xFFFFFFEF), (.rdTiming, 0xFFFFFFF0), (.rdDelay, 0xFFFF0000),
      (.rdStatus, 0xFFFFFFF8), (.rdSelect, 0xFFFFFFF0)] ∨ (∃ pkg e, i = .rdCalM pkg e ∧ reserved = 0xFFFF0000) →
    ∃ w : Word, exec i s = .next { s with responses := s.responses ++ [⟨.okay, w⟩] } ∧ w &&& reserved = 0

/-- R200, R147: the pair (saturated, lux) that RD_STATUS and RD_LUX read after one CONVERT is that conversion's: STATUS[0] is 1 exactly when
it saturated, and then LUX reads 0. -/
def Obligations.LuxPairBelongsToOneConversion : Prop :=
  ∀ (s : State) (full ir : Half), s.regs.configured = true →
    ∃ (t u v : State) (status lux : Word),
      exec (.convert full ir) s = .next t ∧ exec .rdStatus t = .next u ∧ exec .rdLux u = .next v ∧
      v.responses = s.responses ++ [⟨.okay, 0⟩, ⟨.okay, status⟩, ⟨.okay, lux⟩] ∧
      (status.getLsbD 0 = true ↔
        clipOfCode s.regs.integ.code.toNat < full.toNat ∨ clipOfCode s.regs.integ.code.toNat < ir.toNat) ∧
      lux = t.regs.lux ∧ (status.getLsbD 0 = true → lux = 0) ∧ v.regs = t.regs

/-! ### Whole-machine rules -/

/-- R39, R28 at reset, whatever the tables. -/
def Obligations.InvariantHoldsAtReset : Prop :=
  (∀ rom : CalRom, (State.resetWith rom).regs.Inv) ∧ State.reset.regs.Inv

/-- R39, R28: every step, reset and waiting included, keeps the invariants, from every state that has them. -/
def Obligations.StepKeepsInvariant : Prop :=
  ∀ s t : State, s.regs.Inv → step s = .next t → t.regs.Inv

/-- R143, on the registers: at reset and after every step from a state within the bounds, FULL_SCALED, IR_SCALED, RATIO and LUX are within
R143's bounds. -/
def Obligations.StepKeepsResultBounds : Prop :=
  (∀ rom : CalRom, (State.resetWith rom).regs.Bounded) ∧
    ∀ s t : State, s.regs.Bounded → step s = .next t → t.regs.Bounded

/-- R227, R36, R37: at reset and after every step from such a state, the observation registers explain LUX and RATIO, and SEL says which
entry the coefficients are. -/
def Obligations.StepKeepsResultsCoherent : Prop :=
  (∀ rom : CalRom, (State.resetWith rom).Coherent) ∧
    ∀ s t : State, s.Coherent → step s = .next t → t.Coherent

/-- R39 of every reachable state: after any number of steps from reset, whatever the tables and whatever the host issues. With it R28's
invariant, the bounds of R143, what R36, R37, R136, R137, R139 to R141 and R227 say of the result registers, and the unchanged ROM of R38.
The runs start with the events already issued (the model's port, log entry 3). -/
def Obligations.ReachableStatesMeetInvariant : Prop :=
  ∀ (rom : CalRom) (events : List HostEvent) (n : Nat) (t : State),
    Host.Core.run core n { State.resetWith rom with pending := events } = .next t →
      t.regs.Inv ∧ t.regs.Bounded ∧ t.Coherent ∧ t.rom = rom

/-- R38, R51, R241: no step, reset included, changes the calibration ROM. -/
def Obligations.RomNeverChanges : Prop :=
  ∀ s t : State, step s = .next t → t.rom = s.rom

/-- R28, R31: nothing but reset clears CONFIGURED or RESULT_VALID; CONFIGURED becomes 1 only by a WR_CONFIG and RESULT_VALID only by a
CONVERT. -/
def Obligations.OnlyResetClearsFlags : Prop :=
  ∀ s t : State, step s = .next t →
    ((s.regs.configured = true ∧ t.regs.configured = false) ∨ (s.regs.resultValid = true ∧ t.regs.resultValid = false) →
      ∃ rest, s.pending = .reset :: rest) ∧
    (s.regs.configured = false ∧ t.regs.configured = true →
      ∃ w rest, s.pending = .transaction (.write 0x00 w) :: rest) ∧
    (s.regs.resultValid = false ∧ t.regs.resultValid = true →
      ∃ w rest, s.pending = .transaction (.write 0x04 w) :: rest)
end

