-- ==== Sys2Proof/Laws/State.lean ====
section
/-! SUPPORT. One lemma per field per update of the state and of the register file, each true by definition. -/

namespace Sys2Proof.Machine

@[simp] theorem State.respond_regs (s : State) (c : RespCode) (d : Word) : (s.respond c d).regs = s.regs := rfl
@[simp] theorem State.respond_rom (s : State) (c : RespCode) (d : Word) : (s.respond c d).rom = s.rom := rfl
@[simp] theorem State.respond_pending (s : State) (c : RespCode) (d : Word) : (s.respond c d).pending = s.pending := rfl
@[simp] theorem State.respond_responses (s : State) (c : RespCode) (d : Word) :
    (s.respond c d).responses = s.responses ++ [⟨c, d⟩] := rfl

@[simp] theorem State.applyReset_regs (s : State) : s.applyReset.regs = Regs.reset := rfl
@[simp] theorem State.applyReset_rom (s : State) : s.applyReset.rom = s.rom := rfl
@[simp] theorem State.applyReset_pending (s : State) : s.applyReset.pending = s.pending := rfl
@[simp] theorem State.applyReset_responses (s : State) : s.applyReset.responses = s.responses := rfl

@[simp] theorem State.withTransaction_regs (s : State) (t : Transaction) : (s.withTransaction t).regs = s.regs := rfl
@[simp] theorem State.withTransaction_rom (s : State) (t : Transaction) : (s.withTransaction t).rom = s.rom := rfl
@[simp] theorem State.withTransaction_pending (s : State) (t : Transaction) :
    (s.withTransaction t).pending = .transaction t :: s.pending := rfl
@[simp] theorem State.withTransaction_responses (s : State) (t : Transaction) :
    (s.withTransaction t).responses = s.responses := rfl

@[simp] theorem State.resetWith_regs (rom : CalRom) : (State.resetWith rom).regs = Regs.reset := rfl
@[simp] theorem State.resetWith_rom (rom : CalRom) : (State.resetWith rom).rom = rom := rfl
@[simp] theorem State.resetWith_pending (rom : CalRom) : (State.resetWith rom).pending = [] := rfl
@[simp] theorem State.resetWith_responses (rom : CalRom) : (State.resetWith rom).responses = [] := rfl

@[simp] theorem Regs.writeResult_configured (r : Regs) (c : Conversion) : (r.writeResult c).configured = r.configured := rfl
@[simp] theorem Regs.writeResult_gain (r : Regs) (c : Conversion) : (r.writeResult c).gain = r.gain := rfl
@[simp] theorem Regs.writeResult_integ (r : Regs) (c : Conversion) : (r.writeResult c).integ = r.integ := rfl
@[simp] theorem Regs.writeResult_pkg (r : Regs) (c : Conversion) : (r.writeResult c).pkg = r.pkg := rfl
@[simp] theorem Regs.writeResult_sat (r : Regs) (c : Conversion) : (r.writeResult c).sat = false := rfl
@[simp] theorem Regs.writeResult_resultValid (r : Regs) (c : Conversion) : (r.writeResult c).resultValid = true := rfl
@[simp] theorem Regs.writeResult_lux (r : Regs) (c : Conversion) : (r.writeResult c).lux = BitVec.ofNat 32 c.lux := rfl
@[simp] theorem Regs.writeResult_fullScaled (r : Regs) (c : Conversion) :
    (r.writeResult c).fullScaled = BitVec.ofNat 32 c.fullScaled := rfl
@[simp] theorem Regs.writeResult_irScaled (r : Regs) (c : Conversion) :
    (r.writeResult c).irScaled = BitVec.ofNat 32 c.irScaled := rfl
@[simp] theorem Regs.writeResult_ratio (r : Regs) (c : Conversion) : (r.writeResult c).ratio = BitVec.ofNat 32 c.ratio := rfl
@[simp] theorem Regs.writeResult_sel (r : Regs) (c : Conversion) : (r.writeResult c).sel = c.selection.sel := rfl
@[simp] theorem Regs.writeResult_coefB (r : Regs) (c : Conversion) : (r.writeResult c).coefB = c.selection.b := rfl
@[simp] theorem Regs.writeResult_coefM (r : Regs) (c : Conversion) : (r.writeResult c).coefM = c.selection.m := rfl

@[simp] theorem Regs.writeSaturated_configured (r : Regs) : r.writeSaturated.configured = r.configured := rfl
@[simp] theorem Regs.writeSaturated_gain (r : Regs) : r.writeSaturated.gain = r.gain := rfl
@[simp] theorem Regs.writeSaturated_integ (r : Regs) : r.writeSaturated.integ = r.integ := rfl
@[simp] theorem Regs.writeSaturated_pkg (r : Regs) : r.writeSaturated.pkg = r.pkg := rfl
@[simp] theorem Regs.writeSaturated_sat (r : Regs) : r.writeSaturated.sat = true := rfl
@[simp] theorem Regs.writeSaturated_resultValid (r : Regs) : r.writeSaturated.resultValid = true := rfl
@[simp] theorem Regs.writeSaturated_lux (r : Regs) : r.writeSaturated.lux = 0 := rfl
@[simp] theorem Regs.writeSaturated_fullScaled (r : Regs) : r.writeSaturated.fullScaled = 0 := rfl
@[simp] theorem Regs.writeSaturated_irScaled (r : Regs) : r.writeSaturated.irScaled = 0 := rfl
@[simp] theorem Regs.writeSaturated_ratio (r : Regs) : r.writeSaturated.ratio = 0 := rfl
@[simp] theorem Regs.writeSaturated_sel (r : Regs) : r.writeSaturated.sel = 0 := rfl
@[simp] theorem Regs.writeSaturated_coefB (r : Regs) : r.writeSaturated.coefB = 0 := rfl
@[simp] theorem Regs.writeSaturated_coefM (r : Regs) : r.writeSaturated.coefM = 0 := rfl

end Sys2Proof.Machine
end

