-- ==== Sys2Proof/Laws/Conversion.lean ====
section
/-! SUPPORT. The stages of a conversion, one lemma per stage: each as plain arithmetic, and the bound it keeps (R131 to R143). -/

namespace Sys2Proof

theorem IntegTime.clip_eq (t : IntegTime) : t.clip = Machine.clipOfCode t.code.toNat := by cases t <;> rfl

namespace Machine

theorem saturated_iff {integ : IntegTime} {full ir : Half} :
    saturated integ full ir = true ↔ integ.clip < full.toNat ∨ integ.clip < ir.toNat := by
  simp [saturated]

theorem channelScale_eq (integ : IntegTime) (gain : Gain) :
    channelScale integ gain = scaleOfCodes integ.code.toNat gain.bit.toNat := by
  cases integ <;> cases gain <;> rfl

theorem scaleChannel_eq (scale : Nat) (count : Half) : scaleChannel scale count = count.toNat * scale / 1024 := by
  simp [scaleChannel, Nat.shiftRight_eq_div_pow]

theorem rawRatio_eq (fullScaled irScaled : Nat) :
    rawRatio fullScaled irScaled = if fullScaled = 0 then 0 else irScaled * 1024 / fullScaled := by
  simp [rawRatio, Nat.shiftLeft_eq]

theorem roundRatio_eq (n : Nat) : roundRatio n = (n + 1) / 2 := by
  simp [roundRatio, Nat.shiftRight_eq_div_pow]

theorem descale_clampTerm (temp : Int) : ((descale (clampTerm temp) : Nat) : Int) = (max 0 temp + 8192) / 16384 := by
  unfold descale clampTerm
  rw [Nat.shiftRight_eq_div_pow]
  split <;> omega

/-- The exact product of a count within the clipping threshold (R143). -/
theorem product_le {integ : IntegTime} {count : Half} (gain : Gain) (h : count.toNat ≤ integ.clip) :
    count.toNat * channelScale integ gain ≤ 2410032000 := by
  cases integ <;> cases gain <;> simp only [IntegTime.clip, channelScale, IntegTime.baseScale] at * <;> omega

/-- A scaled channel of a conversion that does not saturate (R143). -/
theorem scaleChannel_le {integ : IntegTime} {count : Half} (gain : Gain) (h : count.toNat ≤ integ.clip) :
    scaleChannel (channelScale integ gain) count ≤ 2353546 := by
  have := product_le gain h
  rw [scaleChannel_eq]
  omega

/-- The raw ratio of a conversion that does not saturate (R143): the smallest divisor is one count at the smallest scale. -/
theorem rawRatio_le {integ : IntegTime} {full ir : Half} (gain : Gain) (h : ir.toNat ≤ integ.clip) :
    rawRatio (scaleChannel (channelScale integ gain) full) (scaleChannel (channelScale integ gain) ir) ≤ 66560000 := by
  rw [rawRatio_eq]
  split
  · omega
  · rename_i h0
    rw [scaleChannel_eq] at h0 ⊢
    rw [scaleChannel_eq]
    have hf : 1 ≤ full.toNat := by
      rcases Nat.eq_zero_or_pos full.toNat with h1 | h1
      · simp [h1] at h0
      · exact h1
    apply Nat.div_le_of_le_mul
    cases integ <;> cases gain <;> simp only [IntegTime.clip, channelScale, IntegTime.baseScale] at * <;> omega

/-- The scan finds nothing exactly when the ratio is above every bound. -/
theorem scanEntries_none {ratio : Nat} {l : List (BitVec 4 × CalEntry)} :
    scanEntries ratio l = none ↔ ∀ p ∈ l, p.2.k.toNat < ratio := by
  induction l with
  | nil => simp [scanEntries]
  | cons p rest ih =>
    unfold scanEntries
    split
    · simp; intro; omega
    · simp [ih]; omega

/-- What the scan finds is an entry whose bound is at least the ratio, and every entry before it is below. -/
theorem scanEntries_some {ratio : Nat} {l : List (BitVec 4 × CalEntry)} {x : Selection} (h : scanEntries ratio l = some x) :
    ∃ before number e after, l = before ++ (number, e) :: after ∧ ratio ≤ e.k.toNat ∧ x = ⟨number, e.b, e.m⟩ ∧
      ∀ p ∈ before, p.2.k.toNat < ratio := by
  induction l with
  | nil => simp [scanEntries] at h
  | cons p rest ih =>
    unfold scanEntries at h
    split at h
    · rename_i hk
      cases h
      exact ⟨[], p.1, p.2, rest, rfl, hk, rfl, by simp⟩
    · rename_i hk
      obtain ⟨before, number, e, after, hl, he, hx, hb⟩ := ih h
      refine ⟨p :: before, number, e, after, by simp [hl], he, hx, ?_⟩
      intro q hq
      rcases List.mem_cons.mp hq with rfl | hq
      · omega
      · exact hb q hq

/-- The bounds of an ordered table, as numbers (R173 (b)). -/
theorem calTable_ordered_iff {tab : CalTable} :
    tab.ordered = true ↔ tab.e1.k.toNat ≤ tab.e2.k.toNat ∧ tab.e2.k.toNat ≤ tab.e3.k.toNat ∧
      tab.e3.k.toNat ≤ tab.e4.k.toNat ∧ tab.e4.k.toNat ≤ tab.e5.k.toNat ∧ tab.e5.k.toNat ≤ tab.e6.k.toNat ∧
      tab.e6.k.toNat ≤ tab.e7.k.toNat ∧ tab.e7.k.toNat ≤ tab.e8.k.toNat := by
  simp [CalTable.ordered, BitVec.ule, and_assoc]

end Machine

end Sys2Proof
end

