-- ==== Sys2Proof/Laws/Decode.lean ====
section
/-! SUPPORT. The pieces of the encoding: the header's two fields and the fields of a calibration index come back from where they were
put, and a data word from its bytes and from its two counts. -/

namespace Sys2Proof

theorem header_read_bit (idx : Index) : (Transaction.read idx).header.getLsbD 7 = false := by
  revert idx; decide

theorem header_read_index (idx : Index) : (Transaction.read idx).header.extractLsb 6 0 = idx := by
  revert idx; decide

theorem header_write_bit (idx : Index) (w : Word) : (Transaction.write idx w).header.getLsbD 7 = true := by
  have h : ∀ idx : Index, (1#1 ++ idx : Byte).getLsbD 7 = true := by decide
  exact h idx

theorem header_write_index (idx : Index) (w : Word) : (Transaction.write idx w).header.extractLsb 6 0 = idx := by
  have h : ∀ idx : Index, (1#1 ++ idx : Byte).extractLsb 6 0 = idx := by decide
  exact h idx

theorem header_read_of_bit {h : Byte} (hb : h.getLsbD 7 = false) : (Transaction.read (h.extractLsb 6 0)).header = h := by
  revert h; decide

theorem header_write_of_bit {h : Byte} (w : Word) (hb : h.getLsbD 7 = true) :
    (Transaction.write (h.extractLsb 6 0) w).header = h := by
  have hd : ∀ h : Byte, h.getLsbD 7 = true → (1#1 ++ h.extractLsb 6 0 : Byte) = h := by decide
  exact hd h hb

theorem word_of_bytes (w : Word) :
    w.extractLsb 31 24 ++ w.extractLsb 23 16 ++ w.extractLsb 15 8 ++ w.extractLsb 7 0 = w := by
  apply BitVec.eq_of_getLsbD_eq
  intro i hi
  simp only [BitVec.getLsbD_append, BitVec.getLsbD_extractLsb]
  by_cases h1 : i < 8
  · simp [h1]
  · by_cases h2 : i < 16
    · have : i - 8 < 8 := by omega
      simp [h1, this]; congr 1; omega
    · by_cases h3 : i < 24
      · have h4 : ¬ i - 8 < 8 := by omega
        have h5 : i - 8 - 8 < 8 := by omega
        simp [h1, h4, h5]; congr 1; omega
      · have h4 : ¬ i - 8 < 8 := by omega
        have h5 : ¬ i - 8 - 8 < 8 := by omega
        have h6 : i - 8 - 8 - 8 < 8 := by omega
        simp [h1, h4, h5, h6]; congr 1; omega

/-- Concatenation, the more significant part first (R10), as a number. -/
theorem append_number {m n : Nat} (a : BitVec m) (b : BitVec n) : (a ++ b).toNat = a.toNat * 2 ^ n + b.toNat := by
  rw [BitVec.toNat_append, ← Nat.shiftLeft_add_eq_or_of_lt b.isLt, Nat.shiftLeft_eq]

/-- The bytes of a data word made of bytes are those bytes. -/
theorem bytes_of_word (b0 b1 b2 b3 : Byte) :
    (b3 ++ b2 ++ b1 ++ b0).extractLsb 7 0 = b0 ∧ (b3 ++ b2 ++ b1 ++ b0).extractLsb 15 8 = b1 ∧
      (b3 ++ b2 ++ b1 ++ b0).extractLsb 23 16 = b2 ∧ (b3 ++ b2 ++ b1 ++ b0).extractLsb 31 24 = b3 := by
  have h0 := b0.isLt
  have h1 := b1.isLt
  have h2 := b2.isLt
  have h3 := b3.isLt
  refine ⟨?_, ?_, ?_, ?_⟩ <;> apply BitVec.eq_of_toNat_eq <;>
    simp only [BitVec.extractLsb_toNat, append_number, Nat.shiftRight_eq_div_pow] <;> norm_num <;> omega

theorem calPackage_calIndex (half : BitVec 3) (pkg : Package) (entry : Fin 8) :
    calPackage (calIndex half pkg entry) = pkg := by
  revert half entry; cases pkg <;> decide

theorem calEntry_calIndex (half : BitVec 3) (pkg : Package) (entry : Fin 8) :
    calEntry (calIndex half pkg entry) = entry := by
  revert half entry; cases pkg <;> decide

theorem counts_of_word (full ir : Half) :
    (ir ++ full).extractLsb 15 0 = full ∧ (ir ++ full).extractLsb 31 16 = ir := by
  have h0 := full.isLt
  have h1 := ir.isLt
  constructor <;> apply BitVec.eq_of_toNat_eq <;>
    simp only [BitVec.extractLsb_toNat, append_number, Nat.shiftRight_eq_div_pow] <;> norm_num <;> omega

theorem word_of_counts (w : Word) : w.extractLsb 31 16 ++ w.extractLsb 15 0 = w := by
  apply BitVec.eq_of_getLsbD_eq; intro i hi
  have hi' : i < 32 := hi
  simp only [BitVec.getLsbD_append, BitVec.getLsbD_extractLsb]
  by_cases h : i < 16
  · simp [h]
  · have h' : i - 16 < 16 := by omega
    simp [h, h']; congr 1; omega

end Sys2Proof
end

