-- ==== Sys2Proof/Laws/Operands.lean ====
section
/-! SUPPORT. The operand forms read as arithmetic: what each write operand accepts, and the number each register view is. -/

namespace Sys2Proof

theorem IntegTime.ofCode_code (t : IntegTime) : IntegTime.ofCode t.code.toNat = some t := by cases t <;> rfl

theorem IntegTime.code_of_ofCode {n : Nat} {t : IntegTime} (h : IntegTime.ofCode n = some t) : t.code.toNat = n := by
  match n, h with
  | 0, h => cases h; rfl
  | 1, h => cases h; rfl
  | 2, h => cases h; rfl

theorem IntegTime.ofCode_isSome {n : Nat} : (IntegTime.ofCode n).isSome = true ↔ n ≤ 2 := by
  match n with
  | 0 => simp [IntegTime.ofCode]
  | 1 => simp [IntegTime.ofCode]
  | 2 => simp [IntegTime.ofCode]
  | n + 3 => simp [IntegTime.ofCode]

theorem Gain.bit_ofBit (b : Bool) : (Gain.ofBit b).bit.toNat = b.toNat := by cases b <;> rfl

theorem Package.bit_ofBit (b : Bool) : (Package.ofBit b).bit.toNat = b.toNat := by cases b <;> rfl

theorem IntegTime.delay_eq (t : IntegTime) :
    t.delay.toNat = if t.code.toNat = 0 then 15 else if t.code.toNat = 1 then 120 else 450 := by cases t <;> rfl

namespace Machine

theorem configOperand_reserved {w : Word} :
    (w.extractLsb 7 5 = 0 ∧ w.extractLsb 31 9 = 0) ↔ (w.toNat / 32 % 8 = 0 ∧ w.toNat / 512 = 0) := by
  have h := w.isLt
  simp only [← BitVec.toNat_inj, BitVec.extractLsb_toNat, Nat.shiftRight_eq_div_pow]
  simp
  omega

/-- The value WR_CONFIG refuses, in numbers (R101). -/
theorem configOperand_none {w : Word} :
    configOperand w = none ↔ 2 < w.toNat % 16 ∨ w.toNat / 32 % 8 ≠ 0 ∨ w.toNat / 512 ≠ 0 := by
  have hlow : (w.extractLsb 3 0).toNat = w.toNat % 16 := by simp [BitVec.extractLsb_toNat]
  have hsome := IntegTime.ofCode_isSome (n := w.toNat % 16)
  unfold configOperand
  simp only [configOperand_reserved, hlow]
  cases hc : IntegTime.ofCode (w.toNat % 16) with
  | none =>
    simp only [hc, Option.isSome_none, Bool.false_eq_true, false_iff] at hsome
    simp; omega
  | some t =>
    simp only [hc, Option.isSome_some, true_iff] at hsome
    split <;> simp <;> omega

/-- The fields WR_CONFIG takes, in numbers (R74 (a)). -/
theorem configOperand_some {w : Word} {integ : IntegTime} {gain : Gain} {pkg : Package}
    (h : configOperand w = some (integ, gain, pkg)) :
    integ.code.toNat = w.toNat % 16 ∧ gain.bit.toNat = w.toNat / 16 % 2 ∧ pkg.bit.toNat = w.toNat / 256 % 2 := by
  have hlow : (w.extractLsb 3 0).toNat = w.toNat % 16 := by simp [BitVec.extractLsb_toNat]
  have hbit (k : Nat) : (w.getLsbD k).toNat = w.toNat / 2 ^ k % 2 := by
    rw [BitVec.getLsbD, Nat.toNat_testBit]
  unfold configOperand at h
  rw [hlow] at h
  split at h
  · split at h
    · rename_i t ht
      cases h
      refine ⟨IntegTime.code_of_ofCode ht, ?_, ?_⟩
      · rw [Gain.bit_ofBit, hbit]; norm_num
      · rw [Package.bit_ofBit, hbit]; norm_num
    · cases h
  · cases h

theorem timingOperand_none {w : Word} : timingOperand w = none ↔ 2 < w.toNat := by
  have := IntegTime.ofCode_isSome (n := w.toNat)
  unfold timingOperand
  cases h : IntegTime.ofCode w.toNat <;> simp_all

theorem timingOperand_some {w : Word} {t : IntegTime} (h : timingOperand w = some t) : t.code.toNat = w.toNat :=
  IntegTime.code_of_ofCode h

theorem gainOperand_none {w : Word} : gainOperand w = none ↔ w ≠ 0x00000000 ∧ w ≠ 0x00000010 := by
  unfold gainOperand
  split
  · simp_all
  · split <;> simp_all

theorem Regs.configWord_eq (r : Regs) :
    r.configWord = BitVec.ofNat 32 (256 * r.pkg.bit.toNat + 16 * r.gain.bit.toNat + r.integ.code.toNat) := by
  unfold Regs.configWord
  cases r.pkg <;> cases r.gain <;> cases r.integ <;> decide

theorem Regs.gainWord_eq (r : Regs) : r.gainWord = if r.gain = .x1 then 0x00 else 0x10 := by
  unfold Regs.gainWord
  cases r.gain <;> decide

theorem Regs.timingWord_eq (r : Regs) : r.timingWord = BitVec.ofNat 32 r.integ.code.toNat := by
  unfold Regs.timingWord
  cases r.integ <;> decide

theorem Regs.delayWord_eq (r : Regs) :
    r.delayWord = if r.integ.code = 0 then 15 else if r.integ.code = 1 then 120 else 450 := by
  unfold Regs.delayWord
  cases r.integ <;> decide

end Machine

end Sys2Proof
end

