-- ==== Sys2Proof/Laws/Ops.lean ====
section
/-! SUPPORT. What each shared operation of the host port can do, said once, and what every instruction can do: it answers one response and
writes registers, and neither depends on what is pending or was answered before. -/

namespace Sys2Proof.Machine

theorem raise_next {c : RespCode} {s t : State} : raise c s = .next t ↔ t = s.respond c 0 := by
  simp [raise, eq_comm]

theorem answerRead_next {d : Word} {s t : State} : answerRead d s = .next t ↔ t = s.respond .okay d := by
  simp [answerRead, eq_comm]

theorem answerWrite_next {r : Regs} {s t : State} :
    answerWrite r s = .next t ↔ t = { s with regs := r }.respond .okay 0 := by
  simp [answerWrite, eq_comm]

theorem fetch_nil {s : State} (h : s.pending = []) : fetch s = .idle := by simp [fetch, h]

theorem fetch_reset {s : State} {rest : List HostEvent} (h : s.pending = .reset :: rest) :
    fetch s = .reset { s with pending := rest } := by simp [fetch, h]

theorem fetch_transaction {s : State} {t : Transaction} {rest : List HostEvent} (h : s.pending = .transaction t :: rest) :
    fetch s = .transaction t { s with pending := rest } := by simp [fetch, h]

/-- A transaction's answer: the registers it leaves, and its response. -/
structure Answer where
  regs : Regs
  code : RespCode
  rdata : Word

/-- The state an answer leaves. -/
def State.after (s : State) (o : Answer) : State := { s with regs := o.regs }.respond o.code o.rdata

@[simp] theorem State.after_regs (s : State) (o : Answer) : (s.after o).regs = o.regs := rfl
@[simp] theorem State.after_rom (s : State) (o : Answer) : (s.after o).rom = s.rom := rfl
@[simp] theorem State.after_pending (s : State) (o : Answer) : (s.after o).pending = s.pending := rfl
@[simp] theorem State.after_responses (s : State) (o : Answer) :
    (s.after o).responses = s.responses ++ [⟨o.code, o.rdata⟩] := rfl

/-- The operation gives an answer that depends on the registers and the ROM alone, and writes nothing when it refuses (R215). -/
def Answers (f : State → Result) (s : State) : Prop :=
  ∃ o : Answer, (o.code ≠ .okay → o.regs = s.regs ∧ o.rdata = 0) ∧
    ∀ s' : State, s'.regs = s.regs → s'.rom = s.rom → f s' = .next (s'.after o)

theorem answers_raise (c : RespCode) (s : State) : Answers (raise c) s :=
  ⟨⟨s.regs, c, 0⟩, fun _ => ⟨rfl, rfl⟩, fun s' h _ => by rw [← h]; rfl⟩

theorem answers_read (f : State → Word) (s : State) (hf : ∀ s' : State, s'.regs = s.regs → s'.rom = s.rom → f s' = f s) :
    Answers (fun s' => answerRead (f s') s') s :=
  ⟨⟨s.regs, .okay, f s⟩, fun h => absurd rfl h, fun s' h h' => by rw [← h]; simp only [hf s' h h']; rfl⟩

/-- What every instruction does: exactly one of R72's answers, from the registers and the ROM alone. -/
theorem exec_answers (i : Instr) (s : State) : Answers (exec i) s := by
  cases i with
  | wrConfig w =>
    cases hc : configOperand w with
    | none =>
      exact ⟨⟨s.regs, .cfgError, 0⟩, fun _ => ⟨rfl, rfl⟩, fun s' h _ => by
        simp only [exec, execWrConfig, hc]; rw [← h]; rfl⟩
    | some x =>
      exact ⟨⟨{ s.regs with integ := x.1, gain := x.2.1, pkg := x.2.2, configured := true }, .okay, 0⟩,
        fun h => absurd rfl h, fun s' h _ => by simp only [exec, execWrConfig, hc, h]; rfl⟩
  | wrGain w =>
    cases hc : s.regs.configured with
    | false =>
      exact ⟨⟨s.regs, .notConfigured, 0⟩, fun _ => ⟨rfl, rfl⟩, fun s' h _ => by
        simp only [exec, execWrGain, h, hc]; rw [← h]; rfl⟩
    | true =>
      cases hg : gainOperand w with
      | none =>
        exact ⟨⟨s.regs, .cfgError, 0⟩, fun _ => ⟨rfl, rfl⟩, fun s' h _ => by
          simp only [exec, execWrGain, h, hc, hg]; rw [← h]; rfl⟩
      | some g =>
        exact ⟨⟨{ s.regs with gain := g }, .okay, 0⟩, fun h => absurd rfl h, fun s' h _ => by
          simp only [exec, execWrGain, h, hc, hg]; rfl⟩
  | wrTiming w =>
    cases hc : s.regs.configured with
    | false =>
      exact ⟨⟨s.regs, .notConfigured, 0⟩, fun _ => ⟨rfl, rfl⟩, fun s' h _ => by
        simp only [exec, execWrTiming, h, hc]; rw [← h]; rfl⟩
    | true =>
      cases hg : timingOperand w with
      | none =>
        exact ⟨⟨s.regs, .cfgError, 0⟩, fun _ => ⟨rfl, rfl⟩, fun s' h _ => by
          simp only [exec, execWrTiming, h, hc, hg]; rw [← h]; rfl⟩
      | some g =>
        exact ⟨⟨{ s.regs with integ := g }, .okay, 0⟩, fun h => absurd rfl h, fun s' h _ => by
          simp only [exec, execWrTiming, h, hc, hg]; rfl⟩
  | convert full ir =>
    cases hc : s.regs.configured with
    | false =>
      exact ⟨⟨s.regs, .notConfigured, 0⟩, fun _ => ⟨rfl, rfl⟩, fun s' h _ => by
        simp only [exec, execConvert, h, hc]; rw [← h]; rfl⟩
    | true =>
      exact ⟨⟨s.regs.afterConvert s.rom full ir, .okay, 0⟩, fun h => absurd rfl h, fun s' h h' => by
        simp only [exec, execConvert, h, h', hc]; rfl⟩
  | rdConfig => exact answers_read _ s fun s' h _ => by rw [h]
  | rdGain => exact answers_read _ s fun s' h _ => by rw [h]
  | rdTiming => exact answers_read _ s fun s' h _ => by rw [h]
  | rdDelay => exact answers_read _ s fun s' h _ => by rw [h]
  | rdStatus => exact answers_read _ s fun s' h _ => by rw [h]
  | rdLux => exact answers_read (fun s => s.regs.lux) s fun s' h _ => by rw [h]
  | rdFullScaled => exact answers_read (fun s => s.regs.fullScaled) s fun s' h _ => by rw [h]
  | rdIrScaled => exact answers_read (fun s => s.regs.irScaled) s fun s' h _ => by rw [h]
  | rdRatio => exact answers_read (fun s => s.regs.ratio) s fun s' h _ => by rw [h]
  | rdSelect => exact answers_read _ s fun s' h _ => by rw [h]
  | rdCoef => exact answers_read _ s fun s' h _ => by rw [h]
  | rdCalKb pkg entry => exact answers_read (fun s => ((s.rom.table pkg).entry entry).kbWord) s fun s' _ h => by rw [h]
  | rdCalM pkg entry => exact answers_read (fun s => ((s.rom.table pkg).entry entry).mWord) s fun s' _ h => by rw [h]

end Sys2Proof.Machine
end

