-- ==== Sys2Proof/Laws/PerInstr.lean ====
section
/-! SUPPORT. The per-instruction family TableHeader: the header an instruction is encoded with is one of its row of
spec/opcode_table.json. -/

namespace Sys2Proof.Laws.TableHeader

/-- The header of the encoding, ANDed with the row's mask, is the row's match (R82). -/
def Statement (i : Instr) : Prop := (encode i).header &&& (tableMaskMatch i).1 = (tableMaskMatch i).2

theorem wrConfig (wdata : Word) : Statement (.wrConfig wdata) := by
  change (1#1 ++ 0x00#7 : Byte) &&& 0xFF#8 = 0x80#8; decide

theorem rdConfig : Statement .rdConfig := rfl

theorem wrGain (wdata : Word) : Statement (.wrGain wdata) := by
  change (1#1 ++ 0x01#7 : Byte) &&& 0xFF#8 = 0x81#8; decide

theorem rdGain : Statement .rdGain := rfl

theorem wrTiming (wdata : Word) : Statement (.wrTiming wdata) := by
  change (1#1 ++ 0x02#7 : Byte) &&& 0xFF#8 = 0x82#8; decide

theorem rdTiming : Statement .rdTiming := rfl

theorem rdDelay : Statement .rdDelay := rfl

theorem convert (full ir : Half) : Statement (.convert full ir) := by
  change (1#1 ++ 0x04#7 : Byte) &&& 0xFF#8 = 0x84#8; decide

theorem rdStatus : Statement .rdStatus := rfl

theorem rdLux : Statement .rdLux := rfl

theorem rdFullScaled : Statement .rdFullScaled := rfl

theorem rdIrScaled : Statement .rdIrScaled := rfl

theorem rdRatio : Statement .rdRatio := rfl

theorem rdSelect : Statement .rdSelect := rfl

theorem rdCoef : Statement .rdCoef := rfl

theorem rdCalKb (pkg : Package) (entry : Fin 8) : Statement (.rdCalKb pkg entry) := by
  unfold Statement; revert entry; cases pkg <;> decide

theorem rdCalM (pkg : Package) (entry : Fin 8) : Statement (.rdCalM pkg entry) := by
  unfold Statement; revert entry; cases pkg <;> decide

end Sys2Proof.Laws.TableHeader
end

