-- ==== Sys2Proof/Tests/Slice0.lean ====
section
/-! SUPPORT. Own tests: the legal words, decoding of words written out from the spec, the spec's vectors (spec/95_test_vectors.md, each test
names its V), and, for every obligation with hypotheses, a witness that meets them. -/

namespace Sys2Proof.Tests

open Sys2Proof Sys2Proof.Machine

/-- The state an outcome answers. -/
def stateOf : Result → Option State
  | .next s => some s
  | .fault _ => none
  | .refused _ => none

/-- The registers an outcome answers. -/
def regsOf (r : Result) : Option Regs := (stateOf r).map (·.regs)

/-- The responses an outcome answers. -/
def saidBy (r : Result) : Option (List Response) := (stateOf r).map (·.responses)

/-- The state after reset, configured. -/
def configuredAs (integ : IntegTime) (gain : Gain) (pkg : Package) : State :=
  { State.reset with regs := { Regs.reset with configured := true, integ := integ, gain := gain, pkg := pkg } }

/-- The registers of 95_test_vectors' tuple: CONFIGURED, GAIN, INTEG, PKG, then the result registers of a conversion that did not saturate. -/
def resultRegs (integ : IntegTime) (gain : Gain) (pkg : Package) (lux fs irs ratio : Word) (sel : BitVec 4) (b m : Half) : Regs where
  configured := true
  gain := gain
  integ := integ
  pkg := pkg
  sat := false
  resultValid := true
  lux := lux
  fullScaled := fs
  irScaled := irs
  ratio := ratio
  sel := sel
  coefB := b
  coefM := m

/-- The end state of vector V1. -/
def afterV1 : State := { State.reset with regs := resultRegs .ms13 .x16 .t 52 7493 3746 256 4 624 1022 }

/-- The end state of vector V27. -/
def afterV27 : State := { State.reset with regs := resultRegs .ms402 .x16 .cs 0 1024 1332 666 7 55 43 }

/-- The registers after a saturated conversion (V10). -/
def saturatedRegs (integ : IntegTime) (gain : Gain) (pkg : Package) : Regs :=
  { Regs.reset with configured := true, integ := integ, gain := gain, pkg := pkg, sat := true, resultValid := true }

/-- A table whose K7 is below its K8 (I18): the default T table with K8 raised. -/
def raisedCalT : CalTable := { defaultCalT with e8 := ⟨0x0300, 0x0005, 0x0007⟩ }

/-! ### Well-formedness (R74, R173) -/

theorem test_legal_words :
    (Instr.wrConfig 0x112).wellFormed = true ∧ (Instr.wrGain 0x10).wellFormed = true ∧ (Instr.wrTiming 2).wellFormed = true := by
  decide

theorem test_illegal_words :
    (Instr.wrConfig 0x003).wellFormed = false ∧ (Instr.wrConfig 0x020).wellFormed = false ∧
      (Instr.wrConfig 0x200).wellFormed = false ∧ (Instr.wrGain 0x5).wellFormed = false ∧
      (Instr.wrTiming 0x3).wellFormed = false := by
  decide

theorem test_decreasing_bounds_found :
    { defaultCalT with e1 := ⟨0x0081, 0, 0⟩ }.ordered = false ∧ { defaultCalT with e2 := ⟨0x00C1, 0, 0⟩ }.ordered = false ∧
      { defaultCalT with e3 := ⟨0x0101, 0, 0⟩ }.ordered = false ∧ { defaultCalT with e4 := ⟨0x0139, 0, 0⟩ }.ordered = false ∧
      { defaultCalT with e5 := ⟨0x019B, 0, 0⟩ }.ordered = false ∧ { defaultCalT with e6 := ⟨0x029B, 0, 0⟩ }.ordered = false ∧
      { defaultCalT with e7 := ⟨0x029B, 0, 0⟩ }.ordered = false ∧ defaultRom.ordered = true := by
  decide

/-! ### Decoding, each word written out from R71, R73 and R75 (bytes of P1 to P4 and V46 to V76) -/

theorem test_decode_wrConfig : decodeBytes [0x80, 0x12, 0x01, 0x00, 0x00] = .ok (.wrConfig 0x112, []) := rfl
theorem test_decode_rdConfig : decodeBytes [0x00] = .ok (.rdConfig, []) := rfl
theorem test_decode_wrGain : decodeBytes [0x81, 0x10, 0x01, 0x00, 0x00] = .ok (.wrGain 0x110, []) := rfl
theorem test_decode_rdGain : decodeBytes [0x01] = .ok (.rdGain, []) := rfl
theorem test_decode_wrTiming : decodeBytes [0x82, 0x02, 0x00, 0x00, 0x80] = .ok (.wrTiming 0x80000002, []) := rfl
theorem test_decode_rdTiming : decodeBytes [0x02] = .ok (.rdTiming, []) := rfl
theorem test_decode_rdDelay : decodeBytes [0x03] = .ok (.rdDelay, []) := rfl
theorem test_decode_convert : decodeBytes [0x84, 0xFF, 0xFF, 0x20, 0x4E] = .ok (.convert 65535 20000, []) := rfl
theorem test_decode_rdStatus : decodeBytes [0x05, 0x06] = .ok (.rdStatus, [0x06]) := rfl
theorem test_decode_rdLux : decodeBytes [0x06] = .ok (.rdLux, []) := rfl
theorem test_decode_rdFullScaled : decodeBytes [0x07] = .ok (.rdFullScaled, []) := rfl
theorem test_decode_rdIrScaled : decodeBytes [0x08] = .ok (.rdIrScaled, []) := rfl
theorem test_decode_rdRatio : decodeBytes [0x09] = .ok (.rdRatio, []) := rfl
theorem test_decode_rdSelect : decodeBytes [0x0A] = .ok (.rdSelect, []) := rfl
theorem test_decode_rdCoef : decodeBytes [0x0B] = .ok (.rdCoef, []) := rfl
theorem test_decode_rdCalKb : decodeBytes [0x1B] = .ok (.rdCalKb .t 3, []) := rfl
theorem test_decode_rdCalM : decodeBytes [0x27] = .ok (.rdCalM .cs 7, []) := rfl
theorem test_decode_illegal : decodeBytes [0x83, 0x00, 0x00, 0x00, 0x00] = .error .illegal := rfl
theorem test_decode_incomplete : decodeBytes [0x84, 0x00, 0x01, 0x80] = .error .incomplete := rfl

/-- The table's numbering (spec/opcode_table.json: bit 0 is the header's bit 0), at the row's 8 bits and with an operand. -/
theorem test_table_word :
    decodeTableWord 8 0x2B = some (.rdCalM .t 3) ∧ decodeTableWord 8 0x84 = some (.convert 0 0) ∧
      decodeTableWord 40 0x0080010084 = some (.convert 0x100 0x080) ∧ decodeTableWord 8 0x0C = none := by
  decide

/-! ### The device state (V46 to V66) -/

theorem test_wrConfig_from_reset : -- V46
    (regsOf (exec (.wrConfig 0x110) State.reset)).map (fun r => (r.configWord, r.delayWord, r.statusWord)) =
      some (0x110, 15, 4) := by
  decide

theorem test_wrConfig_refused : -- V47, V48, V49
    saidBy (exec (.wrConfig 0x003) State.reset) = some [⟨.cfgError, 0⟩] ∧
      saidBy (exec (.wrConfig 0x020) (configuredAs .ms13 .x16 .t)) = some [⟨.cfgError, 0⟩] ∧
      saidBy (exec (.wrConfig 0x200) (configuredAs .ms13 .x16 .t)) = some [⟨.cfgError, 0⟩] := by
  decide

theorem test_rdConfig : -- R102's example
    saidBy (exec .rdConfig (configuredAs .ms402 .x16 .cs)) = some [⟨.okay, 0x012⟩] := by
  decide

theorem test_wrGain_writes : -- V51
    regsOf (exec (.wrGain 0x00) (configuredAs .ms402 .x16 .cs)) = some (configuredAs .ms402 .x1 .cs).regs := by
  decide

theorem test_wrGain_refused : -- V53, V54, V56
    saidBy (exec (.wrGain 0x01) (configuredAs .ms402 .x1 .cs)) = some [⟨.cfgError, 0⟩] ∧
      saidBy (exec (.wrGain 0x110) (configuredAs .ms402 .x1 .cs)) = some [⟨.cfgError, 0⟩] ∧
      saidBy (exec (.wrGain 5) State.reset) = some [⟨.notConfigured, 0⟩] := by
  decide

theorem test_rdGain : -- R104's example
    saidBy (exec .rdGain (configuredAs .ms13 .x16 .t)) = some [⟨.okay, 0x10⟩] := by
  decide

theorem test_wrTiming_writes : -- V57
    (regsOf (exec (.wrTiming 2) (configuredAs .ms13 .x16 .t))).map (fun r => (r.configWord, r.delayWord)) =
      some (0x112, 450) := by
  decide

theorem test_wrTiming_refused : -- V61, V62, V63
    saidBy (exec (.wrTiming 3) (configuredAs .ms402 .x16 .t)) = some [⟨.cfgError, 0⟩] ∧
      saidBy (exec (.wrTiming 0x10) (configuredAs .ms402 .x16 .t)) = some [⟨.cfgError, 0⟩] ∧
      saidBy (exec (.wrTiming 1) State.reset) = some [⟨.notConfigured, 0⟩] := by
  decide

theorem test_rdTiming : -- R106's example
    saidBy (exec .rdTiming (configuredAs .ms101 .x1 .t)) = some [⟨.okay, 1⟩] := by
  decide

theorem test_rdDelay : -- V58, V59, V60
    saidBy (exec .rdDelay (configuredAs .ms13 .x1 .cs)) = some [⟨.okay, 15⟩] ∧
      saidBy (exec .rdDelay (configuredAs .ms101 .x1 .cs)) = some [⟨.okay, 120⟩] ∧
      saidBy (exec .rdDelay (configuredAs .ms402 .x1 .cs)) = some [⟨.okay, 450⟩] := by
  decide

/-! ### Conversion: whole register tuples of the spec's vectors -/

theorem test_convert_golden : -- V1, V38: the two gains at 13.7 ms
    regsOf (exec (.convert 0x100 0x080) (configuredAs .ms13 .x16 .t)) = some afterV1.regs ∧
      regsOf (exec (.convert 200 100) (configuredAs .ms13 .x1 .t)) =
        some (resultRegs .ms13 .x1 .t 646 93671 46835 256 4 624 1022) := by
  decide +kernel

theorem test_convert_edges : -- V8, V10, V18, V27, V28, V29, V40: clip and clip + 1, a bound met, the clamp, both fall-backs, CS mid-table
    regsOf (exec (.convert 4900 0) (configuredAs .ms13 .x16 .t)) =
        some (resultRegs .ms13 .x16 .t 4360 143435 0 0 1 498 446) ∧
      regsOf (exec (.convert 4901 0) (configuredAs .ms13 .x16 .t)) = some (saturatedRegs .ms13 .x16 .t) ∧
      regsOf (exec (.convert 1024 128) (configuredAs .ms402 .x16 .t)) =
        some (resultRegs .ms402 .x16 .t 28 1024 128 64 1 498 446) ∧
      regsOf (exec (.convert 1024 1332) (configuredAs .ms402 .x16 .cs)) = some afterV27.regs ∧
      regsOf (exec (.convert 1024 1333) (configuredAs .ms402 .x16 .t)) =
        some (resultRegs .ms402 .x16 .t 0 1024 1333 667 8 0 0) ∧
      regsOf (exec (.convert 1024 1333) (configuredAs .ms402 .x16 .cs)) =
        some (resultRegs .ms402 .x16 .cs 0 1024 1333 667 9 0 0) ∧
      regsOf (exec (.convert 16000 5000) (configuredAs .ms101 .x1 .cs)) =
        some (resultRegs .ms101 .x1 .cs 20130 1017750 318046 160 3 595 867) := by
  decide +kernel

/-! ### Read-back (V67 to V76) -/

theorem test_rdStatus : -- V67, V69, V70
    saidBy (exec .rdStatus State.reset) = some [⟨.okay, 0⟩] ∧ saidBy (exec .rdStatus afterV1) = some [⟨.okay, 6⟩] ∧
      saidBy (exec .rdStatus { State.reset with regs := saturatedRegs .ms13 .x16 .t }) = some [⟨.okay, 7⟩] := by
  decide

theorem test_rdLux : saidBy (exec .rdLux afterV1) = some [⟨.okay, 0x34⟩] := by decide -- V71
theorem test_rdFullScaled : saidBy (exec .rdFullScaled afterV1) = some [⟨.okay, 0x1D45⟩] := by decide -- V71
theorem test_rdIrScaled : saidBy (exec .rdIrScaled afterV1) = some [⟨.okay, 0xEA2⟩] := by decide -- V71
theorem test_rdRatio : saidBy (exec .rdRatio afterV1) = some [⟨.okay, 0x100⟩] := by decide -- V71
theorem test_rdSelect : saidBy (exec .rdSelect afterV1) = some [⟨.okay, 4⟩] := by decide -- V71

theorem test_rdCoef : -- V71, V75
    saidBy (exec .rdCoef afterV1) = some [⟨.okay, 0x03FE0270⟩] ∧ saidBy (exec .rdCoef afterV27) = some [⟨.okay, 0x002B0037⟩] := by
  decide

theorem test_rdCalKb : -- V76: H = 0x1B and 0x10, whatever PKG
    saidBy (exec (.rdCalKb .t 3) State.reset) = some [⟨.okay, 0x02700100⟩] ∧
      saidBy (exec (.rdCalKb .cs 0) afterV1) = some [⟨.okay, 0x02040043⟩] := by
  decide

theorem test_rdCalM : -- V76: H = 0x2B and 0x26
    saidBy (exec (.rdCalM .t 3) State.reset) = some [⟨.okay, 0x3FE⟩] ∧
      saidBy (exec (.rdCalM .cs 6) State.reset) = some [⟨.okay, 0x2B⟩] := by
  decide

/-! ### The step -/

theorem test_step_illegal : -- V77, V78, V84
    saidBy (step (State.reset.withTransaction (.read 0x04))) = some [⟨.accessError, 0⟩] ∧
      saidBy (step (State.reset.withTransaction (.write 0x03 0))) = some [⟨.accessError, 0⟩] := by
  decide

theorem test_step_reset : -- V87
    stateOf (step { afterV1 with pending := [.reset] }) = some State.reset := by
  decide

theorem test_step_fetched_word :
    saidBy (step (State.reset.withFetchWord 8 0x80)) = some [⟨.okay, 0⟩] ∧
      saidBy (step (State.reset.withFetchWord 8 0x84)) = some [⟨.notConfigured, 0⟩] ∧
      saidBy (step (State.reset.withFetchWord 8 0x1B)) = some [⟨.okay, 0x02700100⟩] := by
  decide

/-! ### Witnesses: a state and operands that meet an obligation's hypotheses together, each clause at a boundary -/

/-- A configured state with a transaction and a later event on its port. -/
def busy (t : Transaction) : State := { configuredAs .ms13 .x16 .t with pending := [.transaction t, .reset] }

/-- The same, before any WR_CONFIG. -/
def busyUnconfigured (t : Transaction) : State := { State.reset with pending := [.transaction t, .reset] }

/-- A state whose T table is not ordered. -/
def disordered : State := { State.reset with rom := { defaultRom with t := { defaultCalT with e1 := ⟨0x0081, 0, 0⟩ } } }

theorem witness_DecodeFollowsHeaderMap :
    ((1 : Nat) < 2 ∧ (7 : Nat) < 8) ∧ decode (.read 0x1F) = some (.rdCalKb .t 7) ∧ decode (.read 0x20) = some (.rdCalM .cs 0) ∧
      decode (.read 0x04) = none ∧ decode (.read 0x0C) = none ∧ decode (.read 0x0F) = none ∧ decode (.read 0x30) = none ∧
      decode (.read 0x7F) = none ∧ decode (.write 0x03 0) = none ∧ decode (.write 0x05 0) = none ∧
      decode (.write 0x7F 0) = none := by
  decide

theorem witness_DecodedBytesAreTheEncoding :
    decodeBytes [0x81, 0x10, 0x00, 0x00, 0x00, 0x05] = .ok (.wrGain 0x10, [0x05]) := rfl

theorem witness_HeaderBitGivesLength :
    (0x7F : Byte).toNat < 128 ∧ 128 ≤ (0x80 : Byte).toNat ∧ [(1 : Byte), 2, 3, 4] = 1 :: 2 :: 3 :: 4 :: [] ∧
      [(1 : Byte), 2, 3].length < 4 := by
  decide

theorem witness_StepRunsDecodedTransaction :
    (busy (.write 0x04 0)).rom.ordered = true ∧ (busy (.write 0x04 0)).pending = [.transaction (.write 0x04 0), .reset] ∧
      decode (.write 0x04 0) = some (.convert 0 0) := by
  decide

theorem witness_IllegalHeadersAnswerAccessError :
    (busy (.read 0x04)).rom.ordered = true ∧ (busy (.read 0x04)).pending = [.transaction (.read 0x04), .reset] ∧
      illegalHeaderNumber (Transaction.read 0x04).header.toNat = true ∧ illegalHeaderNumber 0x0F = true ∧
      illegalHeaderNumber 0x30 = true ∧ illegalHeaderNumber 0x7F = true ∧ illegalHeaderNumber 0x83 = true ∧
      illegalHeaderNumber 0x8C = true ∧ illegalHeaderNumber 0xAF = true ∧ illegalHeaderNumber 0xB0 = true ∧
      illegalHeaderNumber 0x84 = false ∧ illegalHeaderNumber 0x0B = false ∧ illegalHeaderNumber 0x2F = false := by
  decide

theorem witness_IdlePortWaits : State.reset.rom.ordered = true ∧ State.reset.pending = [] := by decide

theorem witness_DecreasingBoundsRefused :
    (∃ (pkg : Package) (i j : Fin 8), i < j ∧
      ((disordered.rom.table pkg).entry j).k.toNat < ((disordered.rom.table pkg).entry i).k.toNat) ∧
    ∀ (pkg : Package) (i j : Fin 8), i < j →
      ((State.reset.rom.table pkg).entry i).k.toNat ≤ ((State.reset.rom.table pkg).entry j).k.toNat := by
  refine ⟨⟨.t, 0, 1, by decide⟩, ?_⟩
  intro pkg; cases pkg <;> decide

theorem witness_ResetSetsEveryRegister :
    ({ afterV1 with pending := [.reset] } : State).rom.ordered = true ∧
      ({ afterV1 with pending := [.reset] } : State).pending = [.reset] := by
  decide

theorem witness_OneResponsePerTransaction :
    (busy (.read 0x7F)).rom.ordered = true ∧ (busy (.read 0x7F)).pending = [.transaction (.read 0x7F), .reset] := by
  decide

theorem witness_EveryIssuedTransactionCompletes :
    (busy (.read 0x06)).rom.ordered = true ∧ transactionCount (busy (.read 0x06)).pending = 1 := by
  decide

theorem witness_LaterEventsDoNotInfluenceTheStep :
    (busy (.read 0x05)).pending = [.transaction (.read 0x05), .reset] ∧ (stateOf (step (busy (.read 0x05)))).isSome = true := by
  decide

theorem witness_ErrorsRaisedExactlyWhen :
    saidBy (exec (.wrGain 0x10) State.reset) = some [⟨.notConfigured, 0⟩] ∧
      saidBy (exec (.wrTiming 0) State.reset) = some [⟨.notConfigured, 0⟩] ∧
      saidBy (exec (.convert 0 0) State.reset) = some [⟨.notConfigured, 0⟩] ∧
      saidBy (exec (.wrConfig 0x00F) State.reset) = some [⟨.cfgError, 0⟩] ∧
      saidBy (exec (.wrGain 0x11) (configuredAs .ms13 .x1 .cs)) = some [⟨.cfgError, 0⟩] ∧
      saidBy (exec (.wrTiming 3) (configuredAs .ms13 .x1 .cs)) = some [⟨.cfgError, 0⟩] := by
  decide

theorem witness_ErrorPriority :
    (busy (.write 0x03 5)).rom.ordered = true ∧ (busy (.write 0x03 5)).pending = [.transaction (.write 0x03 5), .reset] ∧
      decode (.write 0x03 5) = none ∧ (busyUnconfigured (.write 0x01 5)).rom.ordered = true ∧
      (busyUnconfigured (.write 0x01 5)).regs.configured = false ∧
      (busyUnconfigured (.write 0x02 3)).pending = [.transaction (.write 0x02 3), .reset] ∧
      (busyUnconfigured (.write 0x04 0)).pending = [.transaction (.write 0x04 0), .reset] := by
  decide

theorem witness_RefusalIsPreciseAndLeavesNoTrace :
    (busy (.write 0x01 5)).rom.ordered = true ∧ (busy (.write 0x01 5)).pending = [.transaction (.write 0x01 5), .reset] ∧
      stateOf (step (busy (.write 0x01 5))) =
        some { configuredAs .ms13 .x16 .t with pending := [.reset], responses := [⟨.cfgError, 0⟩] } ∧
      (busy (.write 0x01 5)).responses = [] ∧ RespCode.cfgError ≠ .okay ∧
      (stateOf (step { busy (.write 0x01 5) with pending := [.reset] })).isSome = true := by
  decide

theorem witness_WrConfigWritesDeviceState :
    2 < (0x003 : Word).toNat % 16 ∧ (0x020 : Word).toNat / 32 % 8 ≠ 0 ∧ (0x200 : Word).toNat / 512 ≠ 0 ∧
      ((0x112 : Word).toNat % 16 ≤ 2 ∧ (0x112 : Word).toNat / 32 % 8 = 0 ∧ (0x112 : Word).toNat / 512 = 0) := by
  decide

theorem witness_WrGainWritesGain :
    State.reset.regs.configured = false ∧ (configuredAs .ms13 .x1 .cs).regs.configured = true ∧
      ((0x00000011 : Word) ≠ 0x00000000 ∧ (0x00000011 : Word) ≠ 0x00000010) := by
  decide

theorem witness_WrTimingWritesTiming :
    State.reset.regs.configured = false ∧ (configuredAs .ms13 .x1 .cs).regs.configured = true ∧ 2 < (3 : Word).toNat ∧
      (2 : Word).toNat ≤ 2 := by
  decide

theorem witness_ExactlyLegalWordsAccepted :
    (configuredAs .ms402 .x1 .t).regs.configured = true ∧
      saidBy (exec (.wrConfig 0x112) (configuredAs .ms402 .x1 .t)) = some [⟨.okay, 0⟩] ∧
      saidBy (exec (.wrConfig 0x113) (configuredAs .ms402 .x1 .t)) = some [⟨.cfgError, 0⟩] := by
  decide

theorem witness_SettingWritesAreIdempotent :
    (configuredAs .ms402 .x1 .t).regs.configured = true ∧
      stateOf (exec (.wrConfig 0x011) (configuredAs .ms402 .x1 .t)) =
        some { configuredAs .ms101 .x16 .cs with responses := [⟨.okay, 0⟩] } ∧
      stateOf (exec (.wrGain 0x10) (configuredAs .ms402 .x1 .t)) =
        some { configuredAs .ms402 .x16 .t with responses := [⟨.okay, 0⟩] } ∧
      stateOf (exec (.wrTiming 0) (configuredAs .ms402 .x1 .t)) =
        some { configuredAs .ms13 .x1 .t with responses := [⟨.okay, 0⟩] } := by
  decide

theorem witness_ReadBackSettingRewritesItself :
    (configuredAs .ms402 .x16 .t).regs.configured = true ∧
      stateOf (exec .rdGain (configuredAs .ms402 .x16 .t)) =
        some { configuredAs .ms402 .x16 .t with responses := [⟨.okay, 0x10⟩] } ∧
      stateOf (exec .rdTiming (configuredAs .ms402 .x16 .t)) =
        some { configuredAs .ms402 .x16 .t with responses := [⟨.okay, 2⟩] } ∧
      stateOf (exec .rdConfig (configuredAs .ms402 .x16 .t)) =
        some { configuredAs .ms402 .x16 .t with responses := [⟨.okay, 0x112⟩] } := by
  decide

theorem witness_EachRegisterHasItsWriters :
    regsOf (exec (.wrConfig 0x112) State.reset) = some (configuredAs .ms402 .x16 .t).regs ∧
      (configuredAs .ms402 .x16 .t).regs.pkg ≠ State.reset.regs.pkg ∧
      (configuredAs .ms402 .x16 .t).regs.gain ≠ State.reset.regs.gain ∧
      (configuredAs .ms402 .x16 .t).regs.integ ≠ State.reset.regs.integ ∧
      regsOf (exec (.convert 0x100 0x080) (configuredAs .ms13 .x16 .t)) = some afterV1.regs ∧
      afterV1.regs.lux ≠ (configuredAs .ms13 .x16 .t).regs.lux := by
  decide +kernel

theorem witness_SaturatesExactlyAboveThreshold :
    (configuredAs .ms402 .x1 .cs).regs.configured = true ∧ clipOfCode (configuredAs .ms402 .x1 .cs).regs.integ.code.toNat = 65000 := by
  decide

theorem witness_SaturatedConvertWritesZeros :
    (configuredAs .ms101 .x1 .cs).regs.configured = true ∧
      clipOfCode (configuredAs .ms101 .x1 .cs).regs.integ.code.toNat < (37001 : Half).toNat ∧
      clipOfCode (configuredAs .ms402 .x1 .cs).regs.integ.code.toNat < (65001 : Half).toNat ∧
      clipOfCode (configuredAs .ms13 .x1 .cs).regs.integ.code.toNat < (4901 : Half).toNat := by
  decide +kernel

theorem witness_ConvertComputesLux :
    (configuredAs .ms101 .x1 .cs).regs.configured = true ∧
      (37000 : Half).toNat ≤ clipOfCode (configuredAs .ms101 .x1 .cs).regs.integ.code.toNat ∧
      (65000 : Half).toNat ≤ clipOfCode (configuredAs .ms402 .x1 .cs).regs.integ.code.toNat ∧
      (4900 : Half).toNat ≤ clipOfCode (configuredAs .ms13 .x1 .cs).regs.integ.code.toNat := by
  decide +kernel

theorem witness_BinaryScanSelectsTheSame : raisedCalT.ordered = true ∧ defaultCalCs.ordered = true := by decide

theorem witness_SelectionIsMonotone : -- V18 and V19
    (configuredAs .ms402 .x16 .t).regs.configured = true ∧
      regsOf (exec (.convert 1024 128) (configuredAs .ms402 .x16 .t)) =
        some (resultRegs .ms402 .x16 .t 28 1024 128 64 1 498 446) ∧
      regsOf (exec (.convert 1024 129) (configuredAs .ms402 .x16 .t)) =
        some (resultRegs .ms402 .x16 .t 28 1024 129 65 2 532 721) ∧ (64 : Word).toNat ≤ (65 : Word).toNat := by
  decide +kernel

theorem witness_DarkFullChannelGivesZeroLux : -- V4
    (configuredAs .ms402 .x16 .t).regs.configured = true ∧
      (100 : Half).toNat ≤ clipOfCode (configuredAs .ms402 .x16 .t).regs.integ.code.toNat ∧
      (65000 : Half).toNat ≤ clipOfCode (configuredAs .ms402 .x16 .t).regs.integ.code.toNat := by
  decide +kernel

theorem witness_ConversionWidths :
    (37000 : Half).toNat ≤ clipOfCode IntegTime.ms101.code.toNat ∧ (65000 : Half).toNat ≤ clipOfCode IntegTime.ms402.code.toNat := by
  decide +kernel

theorem witness_ConversionReadsOnlyItsInputs : -- V45: a state with an earlier result and one without
    afterV1.regs.configured = true ∧ (configuredAs .ms13 .x16 .t).regs.configured = true ∧
      afterV1.regs.integ = (configuredAs .ms13 .x16 .t).regs.integ ∧ afterV1.regs.gain = (configuredAs .ms13 .x16 .t).regs.gain ∧
      afterV1.regs.pkg = (configuredAs .ms13 .x16 .t).regs.pkg ∧ afterV1.rom = (configuredAs .ms13 .x16 .t).rom ∧
      (stateOf (exec (.convert 10 5) afterV1)).isSome = true := by
  decide +kernel

theorem witness_SaturationIgnoresGainAndPackage : -- V44
    (configuredAs .ms13 .x1 .cs).regs.configured = true ∧ (configuredAs .ms13 .x16 .t).regs.configured = true ∧
      (configuredAs .ms13 .x1 .cs).regs.integ = (configuredAs .ms13 .x16 .t).regs.integ ∧
      regsOf (exec (.convert 4901 0) (configuredAs .ms13 .x1 .cs)) = some (saturatedRegs .ms13 .x1 .cs) := by
  decide +kernel

theorem witness_EntryEightReached :
    defaultCalT.ordered = true ∧ defaultCalT.e7.k = defaultCalT.e8.k ∧ raisedCalT.ordered = true ∧
      raisedCalT.e7.k.toNat < 0x029B ∧ 0x0300 ≤ raisedCalT.e8.k.toNat := by
  decide

theorem witness_PackagesDifferAboveEveryBound : -- V28
    defaultCalT.ordered = true ∧ defaultCalT.e8.k.toNat < 0x029B ∧
      (configuredAs .ms402 .x16 .t).regs.configured = true ∧ (configuredAs .ms402 .x16 .t).rom = defaultRom ∧
      regsOf (exec (.convert 1024 1333) (configuredAs .ms402 .x16 .t)) =
        some (resultRegs .ms402 .x16 .t 0 1024 1333 667 8 0 0) ∧ 0x029A < (667 : Word).toNat := by
  decide +kernel

theorem witness_ConvertSeesNewTiming :
    (configuredAs .ms402 .x16 .t).regs.configured = true ∧ (0 : Word).toNat ≤ 2 ∧ (2 : Word).toNat ≤ 2 := by
  decide

theorem witness_StatusReadsItsFlags : Regs.reset.Inv ∧ afterV1.regs.Inv ∧ (saturatedRegs .ms13 .x16 .t).Inv := by
  refine ⟨?_, ?_, ?_⟩ <;> constructor <;> decide

theorem witness_ReadsChangeNothing : encode .rdConfig = .read 0x00 ∧ encode (.rdCalM .t 7) = .read 0x2F := by decide

theorem witness_ReservedBitsReadZero :
    ((Instr.rdSelect, (0xFFFFFFF0 : Word)) ∈ [(Instr.rdConfig, (0xFFFFFEE0 : Word)), (.rdGain, 0xFFFFFFEF), (.rdTiming, 0xFFFFFFF0),
      (.rdDelay, 0xFFFF0000), (.rdStatus, 0xFFFFFFF8), (.rdSelect, 0xFFFFFFF0)]) ∧
      (Instr.rdCalM .cs 0, (0xFFFF0000 : Word)) = (Instr.rdCalM .cs 0, (0xFFFF0000 : Word)) := by
  decide

theorem witness_LuxPairBelongsToOneConversion :
    (configuredAs .ms402 .x1 .cs).regs.configured = true ∧
      clipOfCode (configuredAs .ms402 .x1 .cs).regs.integ.code.toNat < (65001 : Half).toNat := by
  decide +kernel

theorem witness_StepKeepsInvariant :
    (busy (.write 0x04 0x00800100)).regs.Inv ∧
      regsOf (step (busy (.write 0x04 0x00800100))) = some afterV1.regs := by
  refine ⟨by constructor <;> decide, by decide +kernel⟩

theorem witness_StepKeepsResultBounds :
    (busy (.write 0x04 0x00800100)).regs.Bounded ∧ regsOf (step (busy (.write 0x04 0x00800100))) = some afterV1.regs := by
  refine ⟨by constructor <;> decide, by decide +kernel⟩

theorem witness_StepKeepsResultsCoherent :
    afterV1.Coherent ∧ (stateOf (step (afterV1.withTransaction (.read 0x06)))).isSome = true := by
  refine ⟨⟨by decide +kernel, by decide +kernel, by decide +kernel, ?_, by decide +kernel⟩, by decide +kernel⟩
  intro i h
  have hi : i = 3 := by revert i; decide
  exact ⟨.t, by subst hi; decide⟩

theorem witness_ReachableStatesMeetInvariant :
    (match Host.Core.run core 1 { State.resetWith defaultRom with pending := [.transaction (.write 0x00 0x110)] } with
      | .next t => t.regs.configured
      | _ => false) = true := by
  decide

theorem witness_RomNeverChanges : (stateOf (step (busy (.write 0x00 0x112)))).isSome = true := by decide

theorem witness_OnlyResetClearsFlags :
    (afterV1.regs.configured = true ∧ regsOf (step { afterV1 with pending := [.reset] }) = some Regs.reset ∧
        Regs.reset.configured = false ∧ afterV1.regs.resultValid = true ∧ Regs.reset.resultValid = false) ∧
      (State.reset.regs.configured = false ∧
        (regsOf (step (State.reset.withTransaction (.write 0x00 0x110)))).map (·.configured) = some true) ∧
      ((busy (.write 0x04 0)).regs.resultValid = false ∧
        (regsOf (step (busy (.write 0x04 0)))).map (·.resultValid) = some true) := by
  decide +kernel

end Sys2Proof.Tests
end

section
/-! SUPPORT. What one instruction and one step can do, each said once as an inductive relation, and the two inductions that carry an
invariant from the registers an instruction writes to every step and every run. -/

namespace Sys2Proof

/-- A calibration index is rebuilt from its package and its entry: CAL_KB half (R75). -/
theorem calIndex_kb {idx : Index} (hlo : 0x10 ≤ idx.toNat) (hhi : idx.toNat ≤ 0x1F) :
    calIndex 0b001 (calPackage idx) (calEntry idx) = idx := by
  revert idx; decide

/-- A calibration index is rebuilt from its package and its entry: CAL_M half (R75). -/
theorem calIndex_m {idx : Index} (hlo : 0x20 ≤ idx.toNat) (hhi : idx.toNat ≤ 0x2F) :
    calIndex 0b010 (calPackage idx) (calEntry idx) = idx := by
  revert idx; decide

theorem Index.ofNat_eq {idx : Index} {n : Nat} (h : idx.toNat = n) : BitVec.ofNat 7 n = idx := by
  rw [← h, BitVec.ofNat_toNat, BitVec.setWidth_eq]

theorem encode_of_decodeRead {idx : Index} {i : Instr} (h : decodeRead idx = some i) : encode i = .read idx := by
  unfold decodeRead at h
  split at h
  case h_12 =>
    split at h
    · rename_i hkb
      cases h
      exact congrArg Transaction.read (calIndex_kb hkb.1 hkb.2)
    · split at h
      · rename_i hm
        cases h
        exact congrArg Transaction.read (calIndex_m hm.1 hm.2)
      · cases h
  all_goals
    rename_i hn
    cases h
    exact congrArg Transaction.read (Index.ofNat_eq hn)

theorem encode_of_decodeWrite {idx : Index} {w : Word} {i : Instr} (h : decodeWrite idx w = some i) :
    encode i = .write idx w := by
  unfold decodeWrite at h
  split at h
  case h_4 hn =>
    cases h
    rw [encode, word_of_counts]
    exact congrArg (Transaction.write · w) (Index.ofNat_eq hn)
  case h_5 => cases h
  all_goals
    rename_i hn
    cases h
    exact congrArg (Transaction.write · w) (Index.ofNat_eq hn)

/-- A transaction that decodes is the encoding of its instruction (R77). -/
theorem encode_of_decode {tr : Transaction} {i : Instr} (h : decode tr = some i) : encode i = tr := by
  cases tr with
  | read idx => exact encode_of_decodeRead h
  | write idx w => exact encode_of_decodeWrite h

namespace Machine

/-- The register files an instruction can leave: the unchanged one (reads and refusals), or what an accepted write of the setting or
an accepted CONVERT writes, with the conditions under which it is accepted (R101, R103, R105, R142). -/
inductive Writes (rom : CalRom) (r : Regs) : Instr → Regs → Prop where
  | nothing (i : Instr) : Writes rom r i r
  | config (w : Word) (integ : IntegTime) (gain : Gain) (pkg : Package) (operand : configOperand w = some (integ, gain, pkg)) :
      Writes rom r (.wrConfig w) { r with integ := integ, gain := gain, pkg := pkg, configured := true }
  | gain (w : Word) (gain : Gain) (configured : r.configured = true) (operand : gainOperand w = some gain) :
      Writes rom r (.wrGain w) { r with gain := gain }
  | timing (w : Word) (integ : IntegTime) (configured : r.configured = true) (operand : timingOperand w = some integ) :
      Writes rom r (.wrTiming w) { r with integ := integ }
  | clipped (full ir : Half) (configured : r.configured = true) (exceeds : saturated r.integ full ir = true) :
      Writes rom r (.convert full ir) r.writeSaturated
  | converted (full ir : Half) (configured : r.configured = true) (within : saturated r.integ full ir = false) :
      Writes rom r (.convert full ir) (r.writeResult (convertCounts r.integ r.gain r.pkg rom full ir))

theorem raise_writes {rom : CalRom} {c : RespCode} {i : Instr} {s t : State} (h : raise c s = .next t) :
    Writes rom s.regs i t.regs := by
  rw [raise_next.mp h]
  exact .nothing i

theorem answerRead_writes {rom : CalRom} {d : Word} {i : Instr} {s t : State} (h : answerRead d s = .next t) :
    Writes rom s.regs i t.regs := by
  rw [answerRead_next.mp h]
  exact .nothing i

theorem answerWrite_writes {rom : CalRom} {r : Regs} {i : Instr} {s t : State} (h : answerWrite r s = .next t)
    (hr : Writes rom s.regs i r) : Writes rom s.regs i t.regs := by
  rw [answerWrite_next.mp h]
  exact hr

theorem afterConvert_writes {r : Regs} (rom : CalRom) (full ir : Half) (hc : r.configured = true) :
    Writes rom r (.convert full ir) (r.afterConvert rom full ir) := by
  unfold Regs.afterConvert
  split
  next hsat => exact .clipped full ir hc hsat
  next hsat => exact .converted full ir hc (Bool.eq_false_of_not_eq_true hsat)

/-- Every instruction leaves one of the register files of `Writes`. -/
theorem exec_writes {i : Instr} {s t : State} (h : exec i s = .next t) : Writes s.rom s.regs i t.regs := by
  cases i with
  | wrConfig w =>
    simp only [exec, execWrConfig] at h
    split at h
    next hop => exact answerWrite_writes h (.config w _ _ _ hop)
    next => exact raise_writes h
  | wrGain w =>
    simp only [exec, execWrGain] at h
    split at h
    next hc =>
      split at h
      next hop => exact answerWrite_writes h (.gain w _ hc hop)
      next => exact raise_writes h
    next => exact raise_writes h
  | wrTiming w =>
    simp only [exec, execWrTiming] at h
    split at h
    next hc =>
      split at h
      next hop => exact answerWrite_writes h (.timing w _ hc hop)
      next => exact raise_writes h
    next => exact raise_writes h
  | convert full ir =>
    simp only [exec, execConvert] at h
    split at h
    next hc => exact answerWrite_writes h (afterConvert_writes s.rom full ir hc)
    next => exact raise_writes h
  | rdConfig | rdGain | rdTiming | rdDelay | rdStatus | rdLux | rdFullScaled | rdIrScaled | rdRatio | rdSelect | rdCoef
  | rdCalKb | rdCalM => exact answerRead_writes h

/-- No instruction changes the ROM or the port's waiting events (R38, R59). -/
theorem exec_frame {i : Instr} {s t : State} (h : exec i s = .next t) : t.rom = s.rom ∧ t.pending = s.pending := by
  obtain ⟨o, -, ho⟩ := exec_answers i s
  have ht : State.after s o = t := by simpa [ho s rfl rfl] using h
  subst ht
  exact ⟨rfl, rfl⟩

/-- The states a step can leave, by the event it takes (R59, R240, R242, R77). -/
inductive Stepped (s : State) : State → Prop where
  | idle (port : s.pending = []) : Stepped s s
  | reset (rest : List HostEvent) (port : s.pending = .reset :: rest) : Stepped s { s with pending := rest }.applyReset
  | illegal (tr : Transaction) (rest : List HostEvent) (port : s.pending = .transaction tr :: rest) (header : decode tr = none) :
      Stepped s ({ s with pending := rest }.respond .accessError 0)
  | performed (tr : Transaction) (rest : List HostEvent) (i : Instr) (t : State) (port : s.pending = .transaction tr :: rest)
      (header : decode tr = some i) (run : exec i { s with pending := rest } = .next t) : Stepped s t

theorem step_stepped {s t : State} (h : step s = .next t) : Stepped s t := by
  unfold step at h
  split at h
  case isFalse => cases h
  case isTrue =>
    cases hp : s.pending with
    | nil =>
      rw [fetch_nil hp] at h
      cases h
      exact .idle hp
    | cons e rest =>
      cases e with
      | reset =>
        rw [fetch_reset hp] at h
        cases h
        exact .reset rest hp
      | transaction tr =>
        rw [fetch_transaction hp] at h
        simp only [perform] at h
        split at h
        next i hd => exact .performed tr rest i t hp hd h
        next hd =>
          rw [raise_next.mp h]
          exact .illegal tr rest hp hd

theorem step_rom {s t : State} (h : step s = .next t) : t.rom = s.rom := by
  cases step_stepped h with
  | idle | reset | illegal => rfl
  | performed tr rest i _ _ _ run => exact (exec_frame run).1

/-- A property of the registers and the ROM that holds at reset and that no write breaks is kept by every step. -/
theorem step_keeps {P : CalRom → Regs → Prop} (at_reset : ∀ rom, P rom Regs.reset)
    (kept : ∀ {rom r i r'}, Writes rom r i r' → P rom r → P rom r') {s t : State} (hs : P s.rom s.regs) (h : step s = .next t) :
    P t.rom t.regs := by
  rw [step_rom h]
  cases step_stepped h with
  | idle | illegal => exact hs
  | reset => exact at_reset s.rom
  | performed tr rest i _ _ _ run => exact kept (exec_writes (s := { s with pending := rest }) run) hs

theorem run_succ {n : Nat} {s t : State} (h : Host.Core.run core (n + 1) s = .next t) :
    ∃ u, step s = .next u ∧ Host.Core.run core n u = .next t := by
  simp only [Host.Core.run] at h
  split at h
  next u hstep => exact ⟨u, hstep, h⟩
  next => cases h
  next => cases h

/-- What every step keeps, every run keeps. -/
theorem run_keeps {P : State → Prop} (kept : ∀ s t, P s → step s = .next t → P t) {n : Nat} {s t : State} (hs : P s)
    (h : Host.Core.run core n s = .next t) : P t := by
  induction n generalizing s with
  | zero =>
    cases h
    exact hs
  | succ n ih =>
    obtain ⟨u, hstep, hrun⟩ := run_succ h
    exact ih (kept s u hs hstep) hrun

end Machine

end Sys2Proof
end

section
/-! SUPPORT. What a conversion that does not saturate stores: an entry the selector can pick, and numbers within R143's bounds, which
their 32-bit registers therefore hold exactly. -/

namespace Sys2Proof

theorem CalTable.entry_of_mem_numbered {tab : CalTable} {number : BitVec 4} {e : CalEntry} (h : (number, e) ∈ tab.numbered) :
    ∃ i : Fin 8, number = BitVec.ofNat 4 (i.val + 1) ∧ e = tab.entry i := by
  simp only [CalTable.numbered, List.mem_cons, Prod.mk.injEq, List.not_mem_nil, or_false] at h
  obtain h | h | h | h | h | h | h | h := h
  exacts [⟨0, h⟩, ⟨1, h⟩, ⟨2, h⟩, ⟨3, h⟩, ⟨4, h⟩, ⟨5, h⟩, ⟨6, h⟩, ⟨7, h⟩]

namespace Machine

/-- The selection of entry i, which SEL numbers from 1 (R36). -/
def selectionOf (tab : CalTable) (i : Fin 8) : Selection := ⟨BitVec.ofNat 4 (i.val + 1), (tab.entry i).b, (tab.entry i).m⟩

theorem selectionOf_sel_toNat (tab : CalTable) (i : Fin 8) : (selectionOf tab i).sel.toNat = i.val + 1 := by
  simp only [selectionOf, BitVec.toNat_ofNat]
  omega

/-- The selector answers an entry of the table or, for CS, the zero fall-through (R138). -/
theorem select_cases (tab : CalTable) (pkg : Package) (ratio : Nat) :
    (∃ i, select tab pkg ratio = selectionOf tab i) ∨ select tab pkg ratio = ⟨9, 0, 0⟩ := by
  unfold select
  cases hscan : scanEntries ratio tab.numbered with
  | none =>
    cases pkg with
    | cs => exact .inr rfl
    | t => exact .inl ⟨7, rfl⟩
  | some x =>
    obtain ⟨before, number, e, after, hl, -, hx, -⟩ := scanEntries_some hscan
    have hmem : (number, e) ∈ tab.numbered := by simp [hl]
    obtain ⟨i, rfl, rfl⟩ := CalTable.entry_of_mem_numbered hmem
    exact .inl ⟨i, hx⟩

theorem select_sel_bounds (tab : CalTable) (pkg : Package) (ratio : Nat) :
    1 ≤ (select tab pkg ratio).sel.toNat ∧ (select tab pkg ratio).sel.toNat ≤ 9 := by
  obtain ⟨i, h⟩ | h := select_cases tab pkg ratio
  · rw [h, selectionOf_sel_toNat]
    omega
  · rw [h]
    decide

theorem select_sel_ne_zero (tab : CalTable) (pkg : Package) (ratio : Nat) : (select tab pkg ratio).sel ≠ 0 := fun h =>
  absurd (select_sel_bounds tab pkg ratio).1 (by rw [h]; decide)

theorem select_of_sel_eq {tab : CalTable} {pkg : Package} {ratio : Nat} {i : Fin 8}
    (h : (select tab pkg ratio).sel.toNat = i.val + 1) : select tab pkg ratio = selectionOf tab i := by
  obtain ⟨j, hj⟩ | hcs := select_cases tab pkg ratio
  · rw [hj, selectionOf_sel_toNat] at h
    rw [hj, Fin.ext (Nat.succ.inj h)]
  · have hnine : 9 = i.val + 1 := by simpa [hcs] using h
    omega

theorem select_of_sel_nine {tab : CalTable} {pkg : Package} {ratio : Nat} (h : (select tab pkg ratio).sel = 9) :
    (select tab pkg ratio).b = 0 ∧ (select tab pkg ratio).m = 0 := by
  obtain ⟨i, hi⟩ | hcs := select_cases tab pkg ratio
  · have hnine : i.val + 1 = 9 := by rw [← selectionOf_sel_toNat tab i, ← hi, h]; rfl
    omega
  · rw [hcs]
    exact ⟨rfl, rfl⟩

/-- R143's bounds on the values of a conversion, before they are stored. -/
structure Conversion.Bounded (c : Conversion) : Prop where
  full_scaled : c.fullScaled ≤ 2353546
  ir_scaled : c.irScaled ≤ 2353546
  ratio : c.ratio ≤ 33280000
  lux : c.lux ≤ 9414040

theorem roundRatio_le {n : Nat} (h : n ≤ 66560000) : roundRatio n ≤ 33280000 := by
  rw [roundRatio_eq]
  omega

/-- The lux of a scaled channel within its bound, for every pair of coefficients (R143). -/
theorem descale_linearTerm_le {fullScaled : Nat} (irScaled : Nat) (b m : Half) (h : fullScaled ≤ 2353546) :
    descale (clampTerm (linearTerm fullScaled irScaled b m)) ≤ 9414040 := by
  have hprod : fullScaled * b.toNat ≤ 2353546 * 65535 := Nat.mul_le_mul h (Nat.le_of_lt_succ b.isLt)
  have hterm : linearTerm fullScaled irScaled b m ≤ (fullScaled * b.toNat : Nat) := by
    have : (0 : Int) ≤ (irScaled : Int) * (m.toNat : Int) := by positivity
    simp only [linearTerm, Nat.cast_mul]
    omega
  have hdescale := descale_clampTerm (linearTerm fullScaled irScaled b m)
  omega

theorem convertCounts_bounded {integ : IntegTime} {full ir : Half} (gain : Gain) (pkg : Package) (rom : CalRom)
    (within : saturated integ full ir = false) : (convertCounts integ gain pkg rom full ir).Bounded := by
  have hcounts : full.toNat ≤ integ.clip ∧ ir.toNat ≤ integ.clip := by
    simpa [← Bool.not_eq_true, saturated_iff] using within
  obtain ⟨hfull, hir⟩ := hcounts
  exact
    { full_scaled := scaleChannel_le gain hfull
      ir_scaled := scaleChannel_le gain hir
      ratio := roundRatio_le (rawRatio_le gain hir)
      lux := descale_linearTerm_le _ _ _ (scaleChannel_le gain hfull) }

theorem convertCounts_ratio {integ : IntegTime} {gain : Gain} {pkg : Package} {rom : CalRom} {full ir : Half} {c : Conversion}
    (h : c = convertCounts integ gain pkg rom full ir) :
    c.ratio = ((if c.fullScaled = 0 then 0 else c.irScaled * 1024 / c.fullScaled) + 1) / 2 := by
  rw [← rawRatio_eq, ← roundRatio_eq, h]
  rfl

theorem convertCounts_lux {integ : IntegTime} {gain : Gain} {pkg : Package} {rom : CalRom} {full ir : Half} {c : Conversion}
    (h : c = convertCounts integ gain pkg rom full ir) :
    (c.lux : Int) = (max 0 (linearTerm c.fullScaled c.irScaled c.selection.b c.selection.m) + 8192) / 16384 := by
  rw [← descale_clampTerm, h]
  rfl

/-- Storing a conversion within the bounds drops nothing (R143). -/
theorem Regs.writeResult_toNat (r : Regs) {c : Conversion} (hc : c.Bounded) :
    (r.writeResult c).fullScaled.toNat = c.fullScaled ∧ (r.writeResult c).irScaled.toNat = c.irScaled ∧
      (r.writeResult c).ratio.toNat = c.ratio ∧ (r.writeResult c).lux.toNat = c.lux := by
  obtain ⟨hfull, hir, hratio, hlux⟩ := hc
  simp only [Regs.writeResult_fullScaled, Regs.writeResult_irScaled, Regs.writeResult_ratio, Regs.writeResult_lux,
    BitVec.toNat_ofNat]
  omega

end Machine

end Sys2Proof
end

section
/-! Reset, the writes of `Writes` and so every step and every run keep R39's and R28's invariants, R143's bounds and the coherence of the
result registers. -/

namespace Sys2Proof.Machine

theorem Regs.reset_inv : Regs.reset.Inv where
  integ_legal := by decide
  delay_of_integ := by decide
  sel_legal := by decide
  no_result := by decide
  saturated_zero := by decide
  result_configured := by decide
  unconfigured_reset := by decide

theorem integ_code_le (integ : IntegTime) : integ.code.toNat ≤ 2 := by cases integ <;> decide

theorem integ_delay_of_code (integ : IntegTime) :
    integ.delay.toNat = if integ.code = 0 then 15 else if integ.code = 1 then 120 else 450 := by
  cases integ <;> rfl

theorem Writes.inv {rom : CalRom} {r r' : Regs} {i : Instr} (w : Writes rom r i r') (h : r.Inv) : r'.Inv := by
  cases w with
  | nothing => exact h
  | config _ integ =>
    exact
      { h with
        integ_legal := integ_code_le integ
        delay_of_integ := integ_delay_of_code integ
        result_configured := fun _ => rfl
        unconfigured_reset := nofun }
  | gain _ _ configured => exact { h with unconfigured_reset := fun hc => absurd (hc.symm.trans configured) nofun }
  | timing _ integ configured =>
    exact
      { h with
        integ_legal := integ_code_le integ
        delay_of_integ := integ_delay_of_code integ
        unconfigured_reset := fun hc => absurd (hc.symm.trans configured) nofun }
  | clipped _ _ configured =>
    exact
      { h with
        sel_legal := by simp
        no_result := nofun
        saturated_zero := fun _ => by simp
        result_configured := fun _ => configured }
  | converted _ _ configured =>
    exact
      { h with
        sel_legal := (select_sel_bounds _ _ _).2
        no_result := nofun
        saturated_zero := nofun
        result_configured := fun _ => configured }

theorem step_inv (s t : State) (hs : s.regs.Inv) (h : step s = .next t) : t.regs.Inv :=
  step_keeps (P := fun _ r => r.Inv) (fun _ => Regs.reset_inv) Writes.inv hs h

theorem Regs.reset_bounded : Regs.reset.Bounded where
  full_scaled := by decide
  ir_scaled := by decide
  ratio := by decide
  lux := by decide

theorem Regs.writeResult_bounded (r : Regs) {c : Conversion} (hc : c.Bounded) : (r.writeResult c).Bounded := by
  obtain ⟨hfull, hir, hratio, hlux⟩ := r.writeResult_toNat hc
  exact ⟨hfull ▸ hc.full_scaled, hir ▸ hc.ir_scaled, hratio ▸ hc.ratio, hlux ▸ hc.lux⟩

theorem Writes.bounded {rom : CalRom} {r r' : Regs} {i : Instr} (w : Writes rom r i r') (h : r.Bounded) : r'.Bounded := by
  cases w with
  | nothing => exact h
  | config | gain | timing => exact { h with }
  | clipped => constructor <;> simp
  | converted _ _ _ within => exact r.writeResult_bounded (convertCounts_bounded _ _ _ within)

theorem step_bounded (s t : State) (hs : s.regs.Bounded) (h : step s = .next t) : t.regs.Bounded :=
  step_keeps (P := fun _ r => r.Bounded) (fun _ => Regs.reset_bounded) Writes.bounded hs h

/-- Coherence as a property of the registers and the ROM alone. -/
def Regs.Coherent (rom : CalRom) (r : Regs) : Prop := State.Coherent { regs := r, rom := rom, pending := [], responses := [] }

theorem State.coherent_iff {s : State} : s.Coherent ↔ Regs.Coherent s.rom s.regs :=
  ⟨fun h => { h with }, fun h => { h with }⟩

/-- Result registers that hold no number are coherent where there is no result or it is saturated. -/
theorem Regs.coherent_of_zeros (rom : CalRom) {r : Regs} (noNumber : r.resultValid = false ∨ r.sat = true) (lux : r.lux = 0)
    (fullScaled : r.fullScaled = 0) (irScaled : r.irScaled = 0) (ratio : r.ratio = 0) (sel : r.sel = 0) (coefB : r.coefB = 0)
    (coefM : r.coefM = 0) : Regs.Coherent rom r where
  ratio_eq := by simp [ratio, fullScaled]
  lux_eq := by simp [lux, fullScaled, irScaled]
  sel_none := by simp [sel, noNumber]
  sel_entry i h := by simp [sel] at h
  sel_fall_through _ := ⟨coefB, coefM⟩

theorem Regs.reset_coherent (rom : CalRom) : Regs.Coherent rom Regs.reset :=
  Regs.coherent_of_zeros rom (.inl rfl) rfl rfl rfl rfl rfl rfl rfl

theorem Regs.writeSaturated_coherent (rom : CalRom) (r : Regs) : Regs.Coherent rom r.writeSaturated :=
  Regs.coherent_of_zeros rom (.inr rfl) rfl rfl rfl rfl rfl rfl rfl

theorem Regs.writeResult_coherent {rom : CalRom} {r : Regs} {full ir : Half} (within : saturated r.integ full ir = false) :
    Regs.Coherent rom (r.writeResult (convertCounts r.integ r.gain r.pkg rom full ir)) := by
  obtain ⟨hfull, hir, hratio, hlux⟩ := r.writeResult_toNat (convertCounts_bounded r.gain r.pkg rom within)
  exact
    { ratio_eq := by
        simp only [hfull, hir, hratio]
        exact convertCounts_ratio rfl
      lux_eq := by
        simp only [hfull, hir, hlux]
        exact convertCounts_lux rfl
      sel_none := by
        have hsel : (r.writeResult (convertCounts r.integ r.gain r.pkg rom full ir)).sel ≠ 0 := select_sel_ne_zero _ _ _
        exact ⟨fun h => absurd h hsel, nofun⟩
      sel_entry := fun i hi => by
        have hsel : (convertCounts r.integ r.gain r.pkg rom full ir).selection = selectionOf (rom.table r.pkg) i :=
          select_of_sel_eq hi
        exact ⟨r.pkg, congrArg Selection.b hsel, congrArg Selection.m hsel⟩
      sel_fall_through := select_of_sel_nine }

theorem Writes.coherent {rom : CalRom} {r r' : Regs} {i : Instr} (w : Writes rom r i r') (h : Regs.Coherent rom r) :
    Regs.Coherent rom r' := by
  cases w with
  | nothing => exact h
  | config | gain | timing => exact { h with }
  | clipped => exact Regs.writeSaturated_coherent rom r
  | converted _ _ _ within => exact Regs.writeResult_coherent within

theorem step_coherent (s t : State) (hs : s.Coherent) (h : step s = .next t) : t.Coherent :=
  State.coherent_iff.mpr (step_keeps Regs.reset_coherent Writes.coherent (State.coherent_iff.mp hs) h)

theorem resetWith_coherent (rom : CalRom) : (State.resetWith rom).Coherent := State.coherent_iff.mpr (Regs.reset_coherent rom)

/-! ### Reserved bits -/

theorem configWord_reserved (r : Regs) : r.configWord &&& 0xFFFFFEE0 = 0 := by
  unfold Regs.configWord
  cases r.pkg <;> cases r.gain <;> cases r.integ <;> decide

theorem gainWord_reserved (r : Regs) : r.gainWord &&& 0xFFFFFFEF = 0 := by
  unfold Regs.gainWord
  cases r.gain <;> decide

theorem timingWord_reserved (r : Regs) : r.timingWord &&& 0xFFFFFFF0 = 0 := by
  unfold Regs.timingWord
  cases r.integ <;> decide

theorem delayWord_reserved (r : Regs) : r.delayWord &&& 0xFFFF0000 = 0 := by
  unfold Regs.delayWord
  cases r.integ <;> decide

theorem statusWord_reserved (r : Regs) : r.statusWord &&& 0xFFFFFFF8 = 0 := by
  unfold Regs.statusWord
  cases r.configured <;> cases r.resultValid <;> cases r.sat <;> decide

/-- A field in a word's low bits leaves the bits above it 0. -/
theorem setWidth_and_high {n : Nat} (x : BitVec n) : x.setWidth 32 &&& (BitVec.allOnes 32 <<< n) = 0 := by
  ext k hk
  by_cases hn : k < n
  · simp [hn]
  · simp [hn, BitVec.getLsbD_of_ge x k (Nat.le_of_not_lt hn)]

theorem selectWord_reserved (r : Regs) : r.selectWord &&& 0xFFFFFFF0 = 0 := setWidth_and_high r.sel

theorem mWord_reserved (e : CalEntry) : e.mWord &&& 0xFFFF0000 = 0 := setWidth_and_high e.m

end Sys2Proof.Machine

open Sys2Proof Sys2Proof.Machine

/-- Settles O48: no write of an instruction and no reset breaks the invariants. -/
theorem stepKeepsInvariant : Obligations.StepKeepsInvariant := step_inv

/-- Settles O50: the writes of the setting leave the result registers, and CONVERT stores values that fit and belong together. -/
theorem stepKeepsResultsCoherent : Obligations.StepKeepsResultsCoherent := ⟨resetWith_coherent, step_coherent⟩

/-- Settles O26, by the cases of `Writes`. -/
theorem eachRegisterHasItsWriters : Obligations.EachRegisterHasItsWriters := by
  intro i s t h
  obtain ⟨hrom, hpending⟩ := exec_frame h
  have hwrites := exec_writes h
  generalize t.regs = r' at hwrites ⊢
  cases hwrites with
  | nothing => simp [hrom, hpending]
  | config => simp [hrom, hpending]
  | gain => simp [hrom, hpending]
  | timing => simp [hrom, hpending]
  | clipped => simp [hrom, hpending]
  | converted => simp [hrom, hpending]

/-- Settles O45, one register's word at a time. -/
theorem reservedBitsReadZero : Obligations.ReservedBitsReadZero := by
  intro s i reserved h
  simp only [List.mem_cons, Prod.mk.injEq, List.not_mem_nil, or_false] at h
  obtain (⟨rfl, rfl⟩ | ⟨rfl, rfl⟩ | ⟨rfl, rfl⟩ | ⟨rfl, rfl⟩ | ⟨rfl, rfl⟩ | ⟨rfl, rfl⟩) | ⟨pkg, e, rfl, rfl⟩ := h
  · exact ⟨_, rfl, configWord_reserved s.regs⟩
  · exact ⟨_, rfl, gainWord_reserved s.regs⟩
  · exact ⟨_, rfl, timingWord_reserved s.regs⟩
  · exact ⟨_, rfl, delayWord_reserved s.regs⟩
  · exact ⟨_, rfl, statusWord_reserved s.regs⟩
  · exact ⟨_, rfl, selectWord_reserved s.regs⟩
  · exact ⟨_, rfl, mWord_reserved ((s.rom.table pkg).entry e)⟩

/-- Settles O51: what holds at reset and is kept by every step holds after every run. -/
theorem reachableStatesMeetInvariant : Obligations.ReachableStatesMeetInvariant := fun rom _ _ _ h =>
  ⟨run_keeps (P := fun u => u.regs.Inv) step_inv Regs.reset_inv h,
    run_keeps (P := fun u => u.regs.Bounded) step_bounded Regs.reset_bounded h,
    run_keeps step_coherent (State.coherent_iff.mpr (Regs.reset_coherent rom)) h,
    run_keeps (P := fun u => u.rom = rom) (fun _ _ hs hstep => (step_rom hstep).trans hs) rfl h⟩

/-- Settles O52. -/
theorem romNeverChanges : Obligations.RomNeverChanges := fun _ _ => step_rom

/-- Settles O53: of the events a step takes, reset alone clears the flags, and of the writes only WR_CONFIG's and CONVERT's set one. -/
theorem onlyResetClearsFlags : Obligations.OnlyResetClearsFlags := by
  intro s t h
  cases step_stepped h with
  | idle | illegal => simp
  | reset rest port => simp [port, Regs.reset]
  | performed tr rest i _ port header run =>
    have hwrites := exec_writes run
    have htr := encode_of_decode header
    generalize t.regs = r' at hwrites ⊢
    cases hwrites with
    | nothing => simp
    | config => simp [port, ← htr, encode]
    | gain => simp
    | timing => simp
    | clipped => simp [port, ← htr, encode]
    | converted => simp [port, ← htr, encode]

/-- Settles O47. -/
theorem invariantHoldsAtReset : Obligations.InvariantHoldsAtReset := ⟨fun _ => Regs.reset_inv, Regs.reset_inv⟩
end

section
/-! What the host has issued beyond the oldest event is carried through every step untouched (R59), and a transaction of format RD is
answered with a word of the registers and the ROM (R56, R190). -/

namespace Sys2Proof.Machine

/-- What an event taken from the port does to the state it was taken from. -/
def takeEvent : HostEvent → State → Result
  | .reset, s => .next s.applyReset
  | .transaction tr, s => perform tr s

theorem ordered_of_step {s t : State} (h : step s = .next t) : s.rom.ordered = true := by
  unfold step at h
  split at h
  next ordered => exact ordered
  next => cases h

/-- With tables inside the spec, a step is the oldest event taken from the port. -/
theorem step_of_pending {s : State} {e : HostEvent} {rest : List HostEvent} (ordered : s.rom.ordered = true)
    (port : s.pending = e :: rest) : step s = takeEvent e { s with pending := rest } := by
  rw [step, if_pos ordered]
  cases e with
  | reset => rw [fetch_reset port, takeEvent]
  | transaction tr => rw [fetch_transaction port, takeEvent]

/-- An instruction carries the waiting events along, whatever they are. -/
theorem exec_withPending {i : Instr} {s t : State} (h : exec i s = .next t) (waiting : List HostEvent) :
    exec i { s with pending := waiting } = .next { t with pending := waiting } := by
  obtain ⟨o, -, answer⟩ := exec_answers i s
  have ht : State.after s o = t := by simpa [answer s rfl rfl] using h
  subst ht
  exact answer { s with pending := waiting } rfl rfl

theorem perform_withPending {tr : Transaction} {s t : State} (h : perform tr s = .next t) (waiting : List HostEvent) :
    t.pending = s.pending ∧ perform tr { s with pending := waiting } = .next { t with pending := waiting } := by
  unfold perform at h ⊢
  cases hd : decode tr with
  | some i =>
    rw [hd] at h
    exact ⟨(exec_frame h).2, exec_withPending h waiting⟩
  | none =>
    rw [hd] at h
    rw [raise_next.mp h]
    exact ⟨rfl, rfl⟩

theorem takeEvent_withPending {e : HostEvent} {s t : State} (h : takeEvent e s = .next t) (waiting : List HostEvent) :
    t.pending = s.pending ∧ takeEvent e { s with pending := waiting } = .next { t with pending := waiting } := by
  cases e with
  | reset =>
    cases h
    exact ⟨rfl, rfl⟩
  | transaction tr => exact perform_withPending h waiting

/-- An instruction encoded in format RD is a performed read of one word of the registers and the ROM. -/
theorem exec_eq_answerRead {i : Instr} {idx : Index} (h : encode i = .read idx) :
    ∃ word : Regs → CalRom → Word, ∀ s : State, exec i s = answerRead (word s.regs s.rom) s := by
  cases i with
  | wrConfig | wrGain | wrTiming | convert => cases h
  | rdConfig => exact ⟨fun r _ => r.configWord, fun _ => rfl⟩
  | rdGain => exact ⟨fun r _ => r.gainWord, fun _ => rfl⟩
  | rdTiming => exact ⟨fun r _ => r.timingWord, fun _ => rfl⟩
  | rdDelay => exact ⟨fun r _ => r.delayWord, fun _ => rfl⟩
  | rdStatus => exact ⟨fun r _ => r.statusWord, fun _ => rfl⟩
  | rdLux => exact ⟨fun r _ => r.lux, fun _ => rfl⟩
  | rdFullScaled => exact ⟨fun r _ => r.fullScaled, fun _ => rfl⟩
  | rdIrScaled => exact ⟨fun r _ => r.irScaled, fun _ => rfl⟩
  | rdRatio => exact ⟨fun r _ => r.ratio, fun _ => rfl⟩
  | rdSelect => exact ⟨fun r _ => r.selectWord, fun _ => rfl⟩
  | rdCoef => exact ⟨fun r _ => r.coefWord, fun _ => rfl⟩
  | rdCalKb pkg entry => exact ⟨fun _ rom => ((rom.table pkg).entry entry).kbWord, fun _ => rfl⟩
  | rdCalM pkg entry => exact ⟨fun _ rom => ((rom.table pkg).entry entry).mWord, fun _ => rfl⟩

end Sys2Proof.Machine

open Sys2Proof Sys2Proof.Machine

/-- Settles O15: the step takes the oldest event, and neither reset nor a transaction looks at the others. -/
theorem laterEventsDoNotInfluenceTheStep : Obligations.LaterEventsDoNotInfluenceTheStep := by
  intro s u e rest rest' port h
  have ordered := ordered_of_step h
  rw [step_of_pending ordered port] at h
  obtain ⟨waiting, other⟩ := takeEvent_withPending h rest'
  exact ⟨waiting, (step_of_pending (s := { s with pending := e :: rest' }) ordered rfl).trans other⟩

/-- Settles O44: the word is the one that the read's register is in the given registers and ROM. -/
theorem readsChangeNothing : Obligations.ReadsChangeNothing := by
  intro i idx s h
  obtain ⟨word, reads⟩ := exec_eq_answerRead h
  refine ⟨word s.regs s.rom, fun s' hregs hrom => ?_⟩
  rw [← hregs, ← hrom]
  exact reads s'
end

section
/-! The encoding, said once in each direction: a header's top bit gives a transaction its length, a transaction's bytes are the ones it is
taken from (R71, R52), and an instruction's transaction decodes to it (R77). With `encode_of_decode` these make both round trips. -/

namespace Sys2Proof

/-! ### A transaction and its bytes -/

theorem header_bit_iff (h : Byte) : h.getLsbD 7 = true ↔ 128 ≤ h.toNat := by
  rw [← decide_eq_true_iff (p := 128 ≤ h.toNat)]
  exact Eq.congr_left (BitVec.msb_eq_decide h)

theorem takeTransaction_read {h : Byte} (bit : h.getLsbD 7 = false) (tail : List Byte) :
    takeTransaction (h :: tail) = some (.read (h.extractLsb 6 0), tail) := by
  unfold takeTransaction
  exact if_neg (Bool.eq_false_iff.mp bit)

theorem takeTransaction_write {h : Byte} (bit : h.getLsbD 7 = true) (b0 b1 b2 b3 : Byte) (rest : List Byte) :
    takeTransaction (h :: b0 :: b1 :: b2 :: b3 :: rest) = some (.write (h.extractLsb 6 0) (b3 ++ b2 ++ b1 ++ b0), rest) := by
  rw [takeTransaction, if_pos bit]

theorem takeTransaction_short {h : Byte} (bit : h.getLsbD 7 = true) {tail : List Byte} (short : tail.length < 4) :
    takeTransaction (h :: tail) = none := by
  match tail, short with
  | [], _ => simp [takeTransaction, bit]
  | [_], _ => simp [takeTransaction, bit]
  | [_, _], _ => simp [takeTransaction, bit]
  | [_, _, _], _ => simp [takeTransaction, bit]

theorem takeTransaction_bytes (tr : Transaction) (rest : List Byte) : takeTransaction (tr.bytes ++ rest) = some (tr, rest) := by
  cases tr with
  | read idx => exact (takeTransaction_read (header_read_bit idx) rest).trans (by rw [header_read_index])
  | write idx w =>
    exact (takeTransaction_write (header_write_bit idx w) _ _ _ _ rest).trans (by rw [header_write_index, word_of_bytes])

theorem bytes_of_takeTransaction {bytes rest : List Byte} {tr : Transaction} (h : takeTransaction bytes = some (tr, rest)) :
    bytes = tr.bytes ++ rest := by
  match bytes with
  | [] => cases h
  | header :: tail =>
    cases bit : header.getLsbD 7 with
    | false =>
      rw [takeTransaction_read bit] at h
      cases h
      rw [Transaction.bytes, header_read_of_bit bit, List.singleton_append]
    | true =>
      match tail with
      | b0 :: b1 :: b2 :: b3 :: tail =>
        rw [takeTransaction_write bit] at h
        cases h
        obtain ⟨h0, h1, h2, h3⟩ := bytes_of_word b0 b1 b2 b3
        rw [Transaction.bytes, header_write_of_bit _ bit, h0, h1, h2, h3]
        rfl
      | [] | [_] | [_, _] | [_, _, _] =>
        rw [takeTransaction_short bit (by simp)] at h
        cases h

/-- A byte-wide link gives an instruction when it holds a whole transaction and that transaction decodes. -/
theorem decodeBytes_eq_ok {bytes rest : List Byte} {i : Instr} :
    decodeBytes bytes = .ok (i, rest) ↔ ∃ tr, takeTransaction bytes = some (tr, rest) ∧ decode tr = some i := by
  unfold decodeBytes
  cases takeTransaction bytes with
  | none => simp
  | some taken =>
    obtain ⟨tr, left⟩ := taken
    cases hd : decode tr with
    | none => simp [hd]
    | some j => simp [hd, and_comm]

/-! ### Which headers decode -/

theorem calIndex_toNat (half : BitVec 3) (pkg : Package) (entry : Fin 8) :
    (calIndex half pkg entry).toNat = 16 * half.toNat + 8 * pkg.bit.toNat + entry.val := by
  rw [calIndex, append_number, append_number]
  change (half.toNat * 2 ^ 1 + pkg.bit.toNat) * 2 ^ 3 + entry.val = _
  omega

theorem calIndex_of_numbers (half : BitVec 3) {p e : Nat} (hp : p < 2) (he : e < 8) :
    BitVec.ofNat 7 (16 * half.toNat + 8 * p + e) = calIndex half (if p = 0 then .cs else .t) (Fin.ofNat 8 e) := by
  apply Index.ofNat_eq
  have hbit : (if p = 0 then Package.cs else Package.t).bit.toNat = p := by
    match p, hp with
    | 0, _ => rfl
    | 1, _ => rfl
  rw [calIndex_toNat, hbit, Fin.val_ofNat, Nat.mod_eq_of_lt he]

theorem decodeRead_kb {idx : Index} (lo : 0x10 ≤ idx.toNat) (hi : idx.toNat ≤ 0x1F) :
    decodeRead idx = some (.rdCalKb (calPackage idx) (calEntry idx)) := by
  unfold decodeRead
  split
  case h_12 => exact if_pos ⟨lo, hi⟩
  all_goals omega

theorem decodeRead_m {idx : Index} (lo : 0x20 ≤ idx.toNat) (hi : idx.toNat ≤ 0x2F) :
    decodeRead idx = some (.rdCalM (calPackage idx) (calEntry idx)) := by
  unfold decodeRead
  split
  case h_12 => rw [if_neg (by omega), if_pos ⟨lo, hi⟩]
  all_goals omega

theorem decodeRead_none {idx : Index} (h : idx.toNat = 0x04 ∨ (0x0C ≤ idx.toNat ∧ idx.toNat ≤ 0x0F) ∨ 0x30 ≤ idx.toNat) :
    decodeRead idx = none := by
  have notKb : ¬(0x10 ≤ idx.toNat ∧ idx.toNat ≤ 0x1F) := by omega
  have notM : ¬(0x20 ≤ idx.toNat ∧ idx.toNat ≤ 0x2F) := by omega
  unfold decodeRead
  split
  case h_12 => rw [if_neg notKb, if_neg notM]
  all_goals omega

/-- The write headers with a transaction are those of the four writes, whatever the data word (R77). -/
theorem decodeWrite_isSome (idx : Index) (w : Word) : (decodeWrite idx w).isSome = decide (idx.toNat ≤ 2 ∨ idx.toNat = 4) := by
  unfold decodeWrite
  split
  case h_5 not0 not1 not2 not4 =>
    rw [imp_false] at not0 not1 not2 not4
    exact (decide_eq_false (by omega)).symm
  all_goals exact (decide_eq_true (by omega)).symm

/-- The transaction of an instruction decodes to it, with every operand (R77). -/
theorem decode_encode (i : Instr) : decode (encode i) = some i := by
  cases i with
  | wrConfig | wrGain | wrTiming => rfl
  | convert full ir =>
    obtain ⟨hfull, hir⟩ := counts_of_word full ir
    change some (Instr.convert ((ir ++ full).extractLsb 15 0) ((ir ++ full).extractLsb 31 16)) = _
    rw [hfull, hir]
  | rdCalKb pkg entry =>
    have hidx : (calIndex 0b001 pkg entry).toNat = 16 + 8 * pkg.bit.toNat + entry.val := calIndex_toNat 0b001 pkg entry
    have hbit := pkg.bit.isLt
    rw [encode, decode, decodeRead_kb (by omega) (by omega), calPackage_calIndex, calEntry_calIndex]
  | rdCalM pkg entry =>
    have hidx : (calIndex 0b010 pkg entry).toNat = 32 + 8 * pkg.bit.toNat + entry.val := calIndex_toNat 0b010 pkg entry
    have hbit := pkg.bit.isLt
    rw [encode, decode, decodeRead_m (by omega) (by omega), calPackage_calIndex, calEntry_calIndex]
  | rdConfig | rdGain | rdTiming | rdDelay | rdStatus | rdLux | rdFullScaled | rdIrScaled | rdRatio | rdSelect | rdCoef => rfl

theorem length_filter_isSome_add_isNone {α β : Type} (l : List α) (f : α → Option β) :
    (l.filter fun n => (f n).isSome).length + (l.filter fun n => (f n).isNone).length = l.length := by
  simpa using (List.length_eq_length_filter_add fun n => (f n).isSome).symm

namespace Machine

/-! ### Performing a transaction -/

theorem perform_of_decode {tr : Transaction} {i : Instr} (h : decode tr = some i) (s : State) : perform tr s = exec i s := by
  rw [perform, h]

theorem perform_of_illegal {tr : Transaction} (h : decode tr = none) (s : State) : perform tr s = raise .accessError s := by
  rw [perform, h, illegalHeader]

/-! ### The response to an instruction -/

/-- The result is a next state that has one response more, with the given code. -/
def Responds (result : Result) (s : State) (code : RespCode) : Prop :=
  ∃ t r, result = .next t ∧ t.responses = s.responses ++ [r] ∧ r.code = code

theorem responds_raise (code : RespCode) (s : State) : Responds (raise code s) s code := ⟨_, _, rfl, rfl, rfl⟩

theorem responds_answerRead (rdata : Word) (s : State) : Responds (answerRead rdata s) s .okay := ⟨_, _, rfl, rfl, rfl⟩

theorem responds_answerWrite (regs : Regs) (s : State) : Responds (answerWrite regs s) s .okay := ⟨_, _, rfl, rfl, rfl⟩

/-- A word that WR_CONFIG accepts holds its three fields and nothing else (R74 (a)). -/
theorem configOperand_word {w : Word} {integ : IntegTime} {gain : Gain} {pkg : Package}
    (h : configOperand w = some (integ, gain, pkg)) :
    w = BitVec.ofNat 32 (256 * pkg.bit.toNat + 16 * gain.bit.toNat + integ.code.toNat) := by
  obtain ⟨hinteg, hgain, hpkg⟩ := configOperand_some h
  have reserved : ¬(2 < w.toNat % 16 ∨ w.toNat / 32 % 8 ≠ 0 ∨ w.toNat / 512 ≠ 0) := fun refused => by
    rw [configOperand_none.mpr refused] at h
    cases h
  rw [hinteg, hgain, hpkg, ← BitVec.toNat_inj, BitVec.toNat_ofNat]
  omega

/-- WR_CONFIG accepts the twelve words of R74 (a) and no other. -/
theorem configOperand_isSome (w : Word) : (configOperand w).isSome = legalConfigWords.contains w := by
  have accepted : ∀ w ∈ legalConfigWords, (configOperand w).isSome = true := List.all_eq_true.mp rfl
  rw [Bool.eq_iff_iff, List.contains_iff_mem]
  refine ⟨fun h => ?_, accepted w⟩
  obtain ⟨⟨integ, gain, pkg⟩, operand⟩ := Option.isSome_iff_exists.mp h
  rw [configOperand_word operand]
  cases integ <;> cases gain <;> cases pkg <;> decide

theorem gainOperand_isSome (w : Word) : (gainOperand w).isSome = legalGainWords.contains w := by
  rw [Bool.eq_iff_iff, List.contains_iff_mem, Option.isSome_iff_ne_none, ne_eq, gainOperand_none]
  simp only [legalGainWords, List.mem_cons, List.not_mem_nil]
  tauto

theorem timingOperand_isSome (w : Word) : (timingOperand w).isSome = legalTimingWords.contains w := by
  have listed : w ∈ legalTimingWords ↔ w.toNat = 0 ∨ w.toNat = 1 ∨ w.toNat = 2 := by
    simp [legalTimingWords, ← BitVec.toNat_inj]
  rw [Bool.eq_iff_iff, List.contains_iff_mem, Option.isSome_iff_ne_none, ne_eq, timingOperand_none, listed]
  omega

/-- Once configured, an instruction is answered OKAY when its operand is legal and CFG_ERROR when it is not (R74, R78). -/
theorem exec_responds (i : Instr) {s : State} (configured : s.regs.configured = true) :
    Responds (exec i s) s (if i.wellFormed then .okay else .cfgError) := by
  cases i with
  | wrConfig w =>
    rw [exec, execWrConfig, Instr.wellFormed, ← configOperand_isSome]
    cases configOperand w with
    | none => exact responds_raise _ s
    | some fields => exact responds_answerWrite _ s
  | wrGain w =>
    rw [exec, execWrGain, if_pos configured, Instr.wellFormed, ← gainOperand_isSome]
    cases gainOperand w with
    | none => exact responds_raise _ s
    | some gain => exact responds_answerWrite _ s
  | wrTiming w =>
    rw [exec, execWrTiming, if_pos configured, Instr.wellFormed, ← timingOperand_isSome]
    cases timingOperand w with
    | none => exact responds_raise _ s
    | some integ => exact responds_answerWrite _ s
  | convert full ir =>
    rw [exec, execConvert, if_pos configured]
    exact responds_answerWrite _ s
  | rdConfig | rdGain | rdTiming | rdDelay | rdStatus | rdLux | rdFullScaled | rdIrScaled | rdRatio | rdSelect | rdCoef
  | rdCalKb | rdCalM => exact responds_answerRead _ s

end Machine

end Sys2Proof

open Sys2Proof Sys2Proof.Machine

/-- Settles O3: the transaction is taken whole from its bytes, and it decodes to the instruction it carries. -/
theorem decodeReadsBackEncodedBytes : Obligations.DecodeReadsBackEncodedBytes := fun i rest =>
  decodeBytes_eq_ok.mpr ⟨encode i, takeTransaction_bytes (encode i) rest, decode_encode i⟩

/-- Settles O4: the bytes are those of the transaction taken from them, which is the encoding of what it decodes to. -/
theorem decodedBytesAreTheEncoding : Obligations.DecodedBytesAreTheEncoding := by
  intro bytes i rest h
  obtain ⟨tr, taken, decoded⟩ := decodeBytes_eq_ok.mp h
  rw [encodeBytes, encode_of_decode decoded]
  exact bytes_of_takeTransaction taken

/-- Settles O5, by the header's top bit. -/
theorem headerBitGivesLength : Obligations.HeaderBitGivesLength := by
  intro h tail
  refine ⟨fun low => ?_, fun high b0 b1 b2 b3 rest htail => ?_, fun high short => ?_⟩
  · have bit : h.getLsbD 7 = false := Bool.eq_false_iff.mpr fun set => absurd ((header_bit_iff h).mp set) (by omega)
    exact ⟨_, takeTransaction_read bit tail, header_read_of_bit bit⟩
  · have bit := (header_bit_iff h).mpr high
    subst htail
    refine ⟨_, _, takeTransaction_write bit b0 b1 b2 b3 rest, header_write_of_bit _ bit, ?_⟩
    simp only [append_number]
    omega
  · exact takeTransaction_short ((header_bit_iff h).mpr high) short

/-- Settles O23: outside R74's lists the answer is CFG_ERROR. -/
theorem exactlyLegalWordsAccepted : Obligations.ExactlyLegalWordsAccepted := by
  intro i s configured
  obtain ⟨t, r, run, response, code⟩ := exec_responds i configured
  refine ⟨t, r, run, response, ?_⟩
  rw [code]
  cases i.wellFormed <;> decide

/-- Settles O1: the legal rows are encodings of their instructions, and the counts follow from the four write indices and from the read
half, which is finite. -/
theorem decodeFollowsHeaderMap : Obligations.DecodeFollowsHeaderMap := by
  refine ⟨decode_encode .rdConfig, decode_encode .rdGain, decode_encode .rdTiming, decode_encode .rdDelay, decode_encode .rdStatus,
    decode_encode .rdLux, decode_encode .rdFullScaled, decode_encode .rdIrScaled, decode_encode .rdRatio, decode_encode .rdSelect,
    decode_encode .rdCoef, fun p e hp he => ⟨?kb, ?m⟩, fun idx h => decodeRead_none h,
    fun w => ⟨decode_encode (.wrConfig w), decode_encode (.wrGain w), decode_encode (.wrTiming w), ?convert⟩,
    fun idx w h => ?illegalWrite, fun w => ?counts, fun tr s h => perform_of_illegal h s⟩
  case kb => exact (congrArg (decode <| .read ·) (calIndex_of_numbers 0b001 hp he)).trans (decode_encode (.rdCalKb _ _))
  case m => exact (congrArg (decode <| .read ·) (calIndex_of_numbers 0b010 hp he)).trans (decode_encode (.rdCalM _ _))
  case convert =>
    rw [← Nat.shiftRight_eq_div_pow]
    rfl
  case illegalWrite =>
    have illegal : (decodeWrite idx w).isSome = false := by
      rw [decodeWrite_isSome, decide_eq_false_iff_not]
      omega
    exact Option.isNone_iff_eq_none.mp (Option.isSome_eq_false_iff.mp illegal)
  case counts =>
    have writes : ((List.range 128).filter fun n => (decode (.write (BitVec.ofNat 7 n) w)).isSome).length = 4 := by
      simp only [decode, decodeWrite_isSome]
      decide
    have reads : ((List.range 128).filter fun n => (decode (.read (BitVec.ofNat 7 n))).isSome).length = 43 := by decide
    have allWrites := length_filter_isSome_add_isNone (List.range 128) fun n => decode (.write (BitVec.ofNat 7 n) w)
    have allReads := length_filter_isSome_add_isNone (List.range 128) fun n => decode (.read (BitVec.ofNat 7 n))
    rw [List.length_range] at allWrites allReads
    exact ⟨writes, reads, by omega⟩

/-- Settles O2, by running the decoder on each string. -/
theorem writtenOutWordsDecode : Obligations.WrittenOutWordsDecode := ⟨rfl, rfl, rfl, rfl, rfl⟩

/-- Settles O6, by the definition of the codes. -/
theorem responseCodeValues : Obligations.ResponseCodeValues := ⟨rfl, rfl, rfl, rfl⟩

/-- Settles O7: with ordered tables the step is the oldest event's, and a transaction that decodes runs its instruction. -/
theorem stepRunsDecodedTransaction : Obligations.StepRunsDecodedTransaction := by
  intro s tr rest i ordered port decoded
  rw [step_of_pending ordered port, takeEvent, perform_of_decode decoded]
end

section
/-! The device state (R100 to R108): the three writes of the setting share one shape, an operand that is taken and written or refused with
CFG_ERROR, and the word each read of the setting returns is an operand of the write that belongs to it. -/

namespace Sys2Proof.Machine

/-! ### One rule for the writes of the setting -/

/-- A write of the setting that nothing forbids: its operand is written and answered OKAY, or there is none and it is refused (R211). -/
def answerSetting {α : Type} (operand : Option α) (write : α → Regs → Regs) (s : State) : Result :=
  match operand with
  | some a => answerWrite (write a s.regs) s
  | none => raise .cfgError s

/-- What WR_CONFIG writes (R101). -/
def Regs.writeConfig : IntegTime × Gain × Package → Regs → Regs
  | (integ, gain, pkg), r => { r with integ := integ, gain := gain, pkg := pkg, configured := true }

/-- What WR_GAIN writes (R103). -/
def Regs.writeGain (gain : Gain) (r : Regs) : Regs := { r with gain := gain }

/-- What WR_TIMING writes (R105). -/
def Regs.writeTiming (integ : IntegTime) (r : Regs) : Regs := { r with integ := integ }

theorem exec_wrConfig (w : Word) (s : State) : exec (.wrConfig w) s = answerSetting (configOperand w) Regs.writeConfig s := by
  rw [exec, execWrConfig]
  cases configOperand w <;> rfl

theorem exec_wrGain (w : Word) {s : State} (configured : s.regs.configured = true) :
    exec (.wrGain w) s = answerSetting (gainOperand w) Regs.writeGain s := by
  rw [exec, execWrGain, if_pos configured]
  cases gainOperand w <;> rfl

theorem exec_wrTiming (w : Word) {s : State} (configured : s.regs.configured = true) :
    exec (.wrTiming w) s = answerSetting (timingOperand w) Regs.writeTiming s := by
  rw [exec, execWrTiming, if_pos configured]
  cases timingOperand w <;> rfl

theorem exec_wrGain_unconfigured (w : Word) {s : State} (unconfigured : s.regs.configured = false) :
    exec (.wrGain w) s = raise .notConfigured s := by
  rw [exec, execWrGain, unconfigured, if_neg Bool.false_ne_true]

theorem exec_wrTiming_unconfigured (w : Word) {s : State} (unconfigured : s.regs.configured = false) :
    exec (.wrTiming w) s = raise .notConfigured s := by
  rw [exec, execWrTiming, unconfigured, if_neg Bool.false_ne_true]

/-- A write of the setting that is answered OKAY had an operand, and it is the operand that was written. -/
theorem answerSetting_okay {α : Type} {operand : Option α} {write : α → Regs → Regs} {s t : State}
    (h : answerSetting operand write s = .next t) (okay : t.responses = s.responses ++ [⟨.okay, 0⟩]) :
    ∃ a, operand = some a ∧ t = { s with regs := write a s.regs }.respond .okay 0 := by
  cases operand with
  | some a => exact ⟨a, rfl, answerWrite_next.mp h⟩
  | none =>
    rw [raise_next.mp h] at okay
    simp at okay

/-- Where writing an operand twice is writing it once, a write answered OKAY is answered so again and changes nothing more. -/
theorem answerSetting_again {α : Type} {operand : Option α} {write : α → Regs → Regs} {s t : State}
    (idempotent : ∀ a r, write a (write a r) = write a r)
    (h : answerSetting operand write s = .next t) (okay : t.responses = s.responses ++ [⟨.okay, 0⟩]) :
    answerSetting operand write t = .next (t.respond .okay 0) := by
  obtain ⟨a, rfl, rfl⟩ := answerSetting_okay h okay
  exact answerWrite_next.mpr (by rw [State.respond_regs, idempotent]; rfl)

/-- No instruction clears CONFIGURED (R28). -/
theorem exec_keeps_configured {i : Instr} {s t : State} (configured : s.regs.configured = true) (h : exec i s = .next t) :
    t.regs.configured = true := by
  have hwrites := exec_writes h
  generalize t.regs = r' at hwrites ⊢
  cases hwrites with
  | nothing | gain | timing | clipped | converted => exact configured
  | config => rfl

/-! ### The words the setting reads as, as operands -/

theorem answerRead_word {d w : Word} {s t : State} (h : answerRead d s = .next t)
    (response : t.responses = s.responses ++ [⟨.okay, w⟩]) : w = d := by
  rw [answerRead_next.mp h] at response
  simpa [eq_comm] using response

theorem gainOperand_gainWord (r : Regs) : gainOperand r.gainWord = some r.gain := by
  rw [Regs.gainWord_eq]
  cases r.gain <;> rfl

theorem timingOperand_timingWord (r : Regs) : timingOperand r.timingWord = some r.integ := by
  rw [timingOperand, Regs.timingWord, BitVec.toNat_setWidth_of_le (by decide), IntegTime.ofCode_code]

theorem configOperand_configWord (r : Regs) : configOperand r.configWord = some (r.integ, r.gain, r.pkg) := by
  rw [Regs.configWord_eq]
  cases r.pkg <;> cases r.gain <;> cases r.integ <;> rfl

/-- On a configured LCE, writing the setting it holds changes no register. -/
theorem Regs.writeConfig_self {r : Regs} (configured : r.configured = true) : r.writeConfig (r.integ, r.gain, r.pkg) = r := by
  rw [Regs.writeConfig, ← configured]

end Sys2Proof.Machine

open Sys2Proof Sys2Proof.Machine

/-- Settles O19: a word refused has no operand, and the operand of any other is its three fields. -/
theorem wrConfigWritesDeviceState : Obligations.WrConfigWritesDeviceState := by
  intro s w
  rw [exec_wrConfig]
  refine ⟨fun refused => ?_, fun legal => ?_⟩
  · rw [configOperand_none.mpr refused]
    rfl
  · have accepted : configOperand w ≠ none := fun h => by
      have := configOperand_none.mp h
      omega
    obtain ⟨⟨integ, gain, pkg⟩, operand⟩ := Option.ne_none_iff_exists'.mp accepted
    obtain ⟨hinteg, hgain, hpkg⟩ := configOperand_some operand
    refine ⟨integ, gain, pkg, hinteg, hgain, hpkg, ?_, ?_⟩
    · rw [IntegTime.delay_eq, hinteg]
    · rw [operand]
      rfl

/-- Settles O20: CONFIGURED is looked at first, then the word. -/
theorem wrGainWritesGain : Obligations.WrGainWritesGain := by
  intro s w
  refine ⟨exec_wrGain_unconfigured w, fun configured x1 => ?_, fun configured x16 => ?_, fun configured not1 not16 => ?_⟩
  · rw [exec_wrGain w configured, x1]
    rfl
  · rw [exec_wrGain w configured, x16]
    rfl
  · rw [exec_wrGain w configured, gainOperand_none.mpr ⟨not1, not16⟩]
    rfl

/-- Settles O21: CONFIGURED is looked at first, then the word, and DELAY is the written time's. -/
theorem wrTimingWritesTiming : Obligations.WrTimingWritesTiming := by
  intro s w
  refine ⟨exec_wrTiming_unconfigured w, fun configured above => ?_, fun configured legal => ?_⟩
  · rw [exec_wrTiming w configured, timingOperand_none.mpr above]
    rfl
  · obtain ⟨integ, operand⟩ := Option.ne_none_iff_exists'.mp (mt timingOperand_none.mp legal.not_gt)
    have hinteg := timingOperand_some operand
    refine ⟨integ, hinteg, ?_, ?_⟩
    · rw [IntegTime.delay_eq, hinteg]
    · rw [exec_wrTiming w configured, operand]
      rfl

/-- Settles O24: each of the three writes overwrites what it wrote with the same, and CONFIGURED still holds. -/
theorem settingWritesAreIdempotent : Obligations.SettingWritesAreIdempotent := by
  intro s i t configured setting run okay
  have still := exec_keeps_configured configured run
  obtain ⟨w, rfl⟩ | ⟨w, rfl⟩ | ⟨w, rfl⟩ := setting
  · rw [exec_wrConfig] at run ⊢
    exact answerSetting_again (fun _ _ => rfl) run okay
  · rw [exec_wrGain w configured] at run
    rw [exec_wrGain w still]
    exact answerSetting_again (fun _ _ => rfl) run okay
  · rw [exec_wrTiming w configured] at run
    rw [exec_wrTiming w still]
    exact answerSetting_again (fun _ _ => rfl) run okay

/-- Settles O25: the word read is the operand of the values held, and writing a value a register holds changes nothing. -/
theorem readBackSettingRewritesItself : Obligations.ReadBackSettingRewritesItself := by
  intro s t w configured response
  refine ⟨fun read => ?_, fun read => ?_, fun read => ?_⟩
  · rw [answerRead_word read response, exec_wrGain _ configured, gainOperand_gainWord]
    rfl
  · rw [answerRead_word read response, exec_wrTiming _ configured, timingOperand_timingWord]
    rfl
  · rw [answerRead_word read response, exec_wrConfig, configOperand_configWord, answerSetting, Regs.writeConfig_self configured]
    rfl

/-- Settles O22: each word as the number its register's fields make. -/
theorem deviceStateReads : Obligations.DeviceStateReads := by
  intro s
  rw [← s.regs.configWord_eq, ← s.regs.gainWord_eq, ← s.regs.timingWord_eq, ← s.regs.delayWord_eq]
  exact ⟨rfl, rfl, rfl, rfl⟩
end

section
/-! The selector (R138) as a search for the first entry whose bound is at least the ratio: what it answers, how it grows with the ratio,
and that halving finds the same entry where the bounds are ordered. -/

namespace Sys2Proof

theorem CalTable.numbered_eq_map (tab : CalTable) :
    tab.numbered = (List.finRange 8).map fun i => (BitVec.ofNat 4 (i.val + 1), tab.entry i) := rfl

/-- The bounds of a table inside the spec do not decrease (R173 (b)). -/
theorem CalTable.bound_monotone {tab : CalTable} (ordered : tab.ordered = true) :
    Monotone fun i => (tab.entry i).k.toNat := by
  obtain ⟨h12, h23, h34, h45, h56, h67, h78⟩ := Machine.calTable_ordered_iff.mp ordered
  refine Fin.monotone_iff_le_succ.mpr fun i => ?_
  match i with
  | 0 => exact h12
  | 1 => exact h23
  | 2 => exact h34
  | 3 => exact h45
  | 4 => exact h56
  | 5 => exact h67
  | 6 => exact h78

namespace Machine

/-- The first entry whose bound is at least the ratio. -/
def firstEntry (tab : CalTable) (ratio : Nat) : Option (Fin 8) := Fin.find? fun i => decide (ratio ≤ (tab.entry i).k.toNat)

theorem firstEntry_eq_some {tab : CalTable} {ratio : Nat} {i : Fin 8} :
    firstEntry tab ratio = some i ↔ ratio ≤ (tab.entry i).k.toNat ∧ ∀ j < i, (tab.entry j).k.toNat < ratio := by
  simp only [firstEntry, Fin.find?_eq_some_iff, decide_eq_true_eq, decide_eq_false_iff_not, Nat.not_le]

theorem firstEntry_eq_none {tab : CalTable} {ratio : Nat} :
    firstEntry tab ratio = none ↔ ∀ i, (tab.entry i).k.toNat < ratio := by
  simp only [firstEntry, Fin.find?_eq_none_iff, decide_eq_false_iff_not, Nat.not_le]

theorem scanEntries_eq_find? (ratio : Nat) (l : List (BitVec 4 × CalEntry)) :
    scanEntries ratio l = (l.find? fun p => decide (ratio ≤ p.2.k.toNat)).map fun p => ⟨p.1, p.2.b, p.2.m⟩ := by
  induction l with
  | nil => rfl
  | cons p rest ih =>
    rw [scanEntries, List.find?_cons]
    by_cases h : ratio ≤ p.2.k.toNat
    · simp [h]
    · simp [h, ih]

/-- The selector answers the first entry found, or the package's fall-back (R138). -/
theorem select_eq (tab : CalTable) (pkg : Package) (ratio : Nat) :
    select tab pkg ratio = (firstEntry tab ratio).elim (fallBack tab pkg) (selectionOf tab) := by
  have scan : scanEntries ratio tab.numbered = (firstEntry tab ratio).map (selectionOf tab) := by
    rw [scanEntries_eq_find?, CalTable.numbered_eq_map, List.find?_map, Option.map_map, firstEntry, Fin.find?_eq_find?_finRange]
    rfl
  rw [select, scan]
  cases firstEntry tab ratio <;> rfl

theorem select_of_firstEntry {tab : CalTable} {ratio : Nat} {i : Fin 8} (pkg : Package) (h : firstEntry tab ratio = some i) :
    select tab pkg ratio = selectionOf tab i := by
  rw [select_eq, h, Option.elim_some]

theorem select_of_above {tab : CalTable} {ratio : Nat} (pkg : Package) (h : firstEntry tab ratio = none) :
    select tab pkg ratio = fallBack tab pkg := by
  rw [select_eq, h, Option.elim_none]

/-- What R138 describes is what the selector answers. -/
theorem selectsEntry_iff {tab : CalTable} {pkg : Package} {ratio sel : Nat} {b m : Half} :
    SelectsEntry tab pkg ratio sel b m ↔
      sel = (select tab pkg ratio).sel.toNat ∧ b = (select tab pkg ratio).b ∧ m = (select tab pkg ratio).m := by
  constructor
  · rintro (⟨i, reached, before, rfl, rfl, rfl⟩ | ⟨above, ⟨rfl, rfl, rfl, rfl⟩ | ⟨rfl, rfl, rfl, rfl⟩⟩)
    · rw [select_of_firstEntry pkg (firstEntry_eq_some.mpr ⟨reached, before⟩)]
      exact ⟨(selectionOf_sel_toNat tab i).symm, rfl, rfl⟩
    · rw [select_of_above .t (firstEntry_eq_none.mpr above)]
      exact ⟨rfl, rfl, rfl⟩
    · rw [select_of_above .cs (firstEntry_eq_none.mpr above)]
      exact ⟨rfl, rfl, rfl⟩
  · rintro ⟨rfl, rfl, rfl⟩
    cases found : firstEntry tab ratio with
    | some i =>
      obtain ⟨reached, before⟩ := firstEntry_eq_some.mp found
      rw [select_of_firstEntry pkg found]
      exact .inl ⟨i, reached, before, selectionOf_sel_toNat tab i, rfl, rfl⟩
    | none =>
      rw [select_of_above pkg found]
      refine .inr ⟨firstEntry_eq_none.mp found, ?_⟩
      cases pkg with
      | t => exact .inl ⟨rfl, rfl, rfl, rfl⟩
      | cs => exact .inr ⟨rfl, rfl, rfl, rfl⟩

/-! ### SEL grows with the ratio (R146) -/

theorem fallBack_sel_ge (tab : CalTable) (pkg : Package) : 8 ≤ (fallBack tab pkg).sel.toNat := by
  cases pkg with
  | t => exact Nat.le_refl 8
  | cs => exact Nat.le_succ 8

theorem selectionOf_sel_le (tab : CalTable) (i : Fin 8) : (selectionOf tab i).sel.toNat ≤ 8 :=
  (selectionOf_sel_toNat tab i).trans_le i.isLt

/-- Whatever the order of the bounds: an entry that reaches the larger ratio reaches the smaller. -/
theorem select_sel_mono (tab : CalTable) (pkg : Package) {ratio₁ ratio₂ : Nat} (h : ratio₁ ≤ ratio₂) :
    (select tab pkg ratio₁).sel.toNat ≤ (select tab pkg ratio₂).sel.toNat := by
  cases found₁ : firstEntry tab ratio₁ with
  | none =>
    have above : firstEntry tab ratio₂ = none := firstEntry_eq_none.mpr fun i => (firstEntry_eq_none.mp found₁ i).trans_le h
    rw [select_of_above pkg found₁, select_of_above pkg above]
  | some i =>
    cases found₂ : firstEntry tab ratio₂ with
    | none =>
      rw [select_of_firstEntry pkg found₁, select_of_above pkg found₂]
      exact (selectionOf_sel_le tab i).trans (fallBack_sel_ge tab pkg)
    | some j =>
      have hij : i ≤ j := not_lt.mp fun hji => by
        have reached := (firstEntry_eq_some.mp found₂).1
        have below := (firstEntry_eq_some.mp found₁).2 j hji
        omega
      rw [select_of_firstEntry pkg found₁, select_of_firstEntry pkg found₂, selectionOf_sel_toNat, selectionOf_sel_toNat]
      exact Nat.succ_le_succ hij

/-! ### The binary scan -/

/-- A binary search between `lo` and `hi` has settled the rest: below `lo` no entry reaches the ratio, from `hi` on every one does. -/
structure SettledOutside (tab : CalTable) (ratio lo hi : Nat) : Prop where
  below : ∀ j : Fin 8, j.val < lo → (tab.entry j).k.toNat < ratio
  reached : ∀ j : Fin 8, hi ≤ j.val → ratio ≤ (tab.entry j).k.toNat

/-- Looking at an entry between `lo` and `hi` settles one side of it. -/
theorem SettledOutside.reached_at {tab : CalTable} {ratio lo hi : Nat} (settled : SettledOutside tab ratio lo hi)
    (ordered : tab.ordered = true) {mid : Fin 8} (h : ratio ≤ (tab.entry mid).k.toNat) : SettledOutside tab ratio lo mid where
  below := settled.below
  reached _ hj := h.trans (tab.bound_monotone ordered hj)

theorem SettledOutside.below_at {tab : CalTable} {ratio lo hi : Nat} (settled : SettledOutside tab ratio lo hi)
    (ordered : tab.ordered = true) {mid : Fin 8} (h : (tab.entry mid).k.toNat < ratio) :
    SettledOutside tab ratio (mid + 1) hi where
  below _ hj := (CalTable.bound_monotone ordered (Nat.le_of_lt_succ hj)).trans_lt h
  reached := settled.reached

/-- With fuel for the halvings the binary scan settles every entry. -/
theorem binaryScan_settles {tab : CalTable} {ratio : Nat} (ordered : tab.ordered = true) (fuel : Nat) {lo hi : Nat}
    (hhi : hi ≤ 8) (enough : hi < lo + 2 ^ fuel) (hle : lo ≤ hi) (settled : SettledOutside tab ratio lo hi) :
    SettledOutside tab ratio (binaryScan tab ratio fuel lo hi) (binaryScan tab ratio fuel lo hi) := by
  induction fuel generalizing lo hi with
  | zero =>
    have : hi = lo := by omega
    subst this
    exact settled
  | succ fuel ih =>
    rw [pow_succ] at enough
    rw [binaryScan]
    split
    case isFalse h =>
      have : hi = lo := by omega
      subst this
      exact settled
    case isTrue h =>
      have hmid : (Fin.ofNat 8 ((lo + hi) / 2)).val = (lo + hi) / 2 := Nat.mod_eq_of_lt (by omega)
      split
      case isTrue reached =>
        have upper := settled.reached_at ordered reached
        rw [hmid] at upper
        exact ih (by omega) (by omega) (by omega) upper
      case isFalse below =>
        have lower := settled.below_at ordered (Nat.lt_of_not_le below)
        rw [hmid] at lower
        exact ih hhi (by omega) (by omega) lower

/-- An index with every entry settled is the first entry found, or past the table where there is none. -/
theorem SettledOutside.firstEntry_eq {tab : CalTable} {ratio i : Nat} (settled : SettledOutside tab ratio i i) :
    firstEntry tab ratio = if i < 8 then some (Fin.ofNat 8 i) else none := by
  split
  case isTrue h =>
    have hval : (Fin.ofNat 8 i).val = i := Nat.mod_eq_of_lt h
    exact firstEntry_eq_some.mpr ⟨settled.reached _ hval.ge, fun j hj => settled.below j (hval ▸ hj)⟩
  case isFalse h => exact firstEntry_eq_none.mpr fun j => settled.below j (by omega)

theorem selectBinary_eq_select {tab : CalTable} (pkg : Package) (ratio : Nat) (ordered : tab.ordered = true) :
    selectBinary tab pkg ratio = select tab pkg ratio := by
  have start : SettledOutside tab ratio 0 8 := ⟨nofun, fun j h => absurd j.isLt (by omega)⟩
  have found := (binaryScan_settles ordered 4 (by decide) (by decide) (by decide) start).firstEntry_eq
  rw [select_eq, found, selectBinary]
  by_cases h : binaryScan tab ratio 4 0 8 < 8
  · have hval : (Fin.ofNat 8 (binaryScan tab ratio 4 0 8)).val = binaryScan tab ratio 4 0 8 := Nat.mod_eq_of_lt h
    simp only [if_pos h, Option.elim_some, selectionOf, hval]
  · simp only [if_neg h, Option.elim_none]

end Machine

end Sys2Proof

open Sys2Proof Sys2Proof.Machine

/-- Settles O30. -/
theorem selectorPicksFirstBound : Obligations.SelectorPicksFirstBound := fun _ _ _ _ _ _ => selectsEntry_iff

/-- Settles O31: four halvings settle all eight entries. -/
theorem binaryScanSelectsTheSame : Obligations.BinaryScanSelectsTheSame := fun _ pkg ratio ordered =>
  selectBinary_eq_select pkg ratio ordered
end

section
/-! CONVERT (R130): what an accepted one leaves, by the saturation test, and the values of one that does not saturate. -/

namespace Sys2Proof.Machine

/-! ### The registers an accepted CONVERT leaves -/

theorem exec_convert {s : State} (configured : s.regs.configured = true) (full ir : Half) :
    exec (.convert full ir) s = answerWrite (s.regs.afterConvert s.rom full ir) s := by
  rw [exec, execConvert, if_pos configured]

theorem exec_convert_regs {s t : State} {full ir : Half} (configured : s.regs.configured = true)
    (h : exec (.convert full ir) s = .next t) : t.regs = s.regs.afterConvert s.rom full ir := by
  rw [exec_convert configured, answerWrite_next] at h
  rw [h, State.respond_regs]

/-- The saturation test, by the thresholds R131 lists. -/
theorem saturated_iff_clipOfCode {integ : IntegTime} {full ir : Half} :
    saturated integ full ir = true ↔ clipOfCode integ.code.toNat < full.toNat ∨ clipOfCode integ.code.toNat < ir.toNat := by
  rw [saturated_iff, IntegTime.clip_eq]

theorem not_saturated {integ : IntegTime} {full ir : Half} (hfull : full.toNat ≤ clipOfCode integ.code.toNat)
    (hir : ir.toNat ≤ clipOfCode integ.code.toNat) : saturated integ full ir = false :=
  Bool.eq_false_iff.mpr fun h => (saturated_iff_clipOfCode.mp h).elim hfull.not_gt hir.not_gt

theorem Regs.afterConvert_of_saturated {r : Regs} {full ir : Half} (rom : CalRom) (h : saturated r.integ full ir = true) :
    r.afterConvert rom full ir = r.writeSaturated := if_pos h

theorem Regs.afterConvert_of_not_saturated {r : Regs} {full ir : Half} (rom : CalRom) (h : saturated r.integ full ir = false) :
    r.afterConvert rom full ir = r.writeResult (convertCounts r.integ r.gain r.pkg rom full ir) :=
  if_neg (Bool.eq_false_iff.mp h)

@[simp] theorem Regs.afterConvert_sat (r : Regs) (rom : CalRom) (full ir : Half) :
    (r.afterConvert rom full ir).sat = saturated r.integ full ir := by
  cases h : saturated r.integ full ir with
  | true => rw [afterConvert_of_saturated rom h, writeSaturated_sat]
  | false => rw [afterConvert_of_not_saturated rom h, writeResult_sat]

/-- The result registers of a conversion overwrite what was there: of the registers before it only the setting is left. -/
theorem Regs.writeResult_congr {r₁ r₂ : Regs} (configured : r₁.configured = r₂.configured) (gain : r₁.gain = r₂.gain)
    (integ : r₁.integ = r₂.integ) (pkg : r₁.pkg = r₂.pkg) (c : Conversion) : r₁.writeResult c = r₂.writeResult c := by
  rw [writeResult, writeResult, configured, gain, integ, pkg]

theorem Regs.writeSaturated_congr {r₁ r₂ : Regs} (configured : r₁.configured = r₂.configured) (integ : r₁.integ = r₂.integ) :
    r₁.writeSaturated = { r₂.writeSaturated with gain := r₁.gain, pkg := r₁.pkg } := by
  rw [writeSaturated, writeSaturated, configured, integ]

/-- A conversion reads the setting, the tables and the counts alone (R149). -/
theorem Regs.afterConvert_congr {r₁ r₂ : Regs} (configured : r₁.configured = r₂.configured) (gain : r₁.gain = r₂.gain)
    (integ : r₁.integ = r₂.integ) (pkg : r₁.pkg = r₂.pkg) (rom : CalRom) (full ir : Half) :
    r₁.afterConvert rom full ir = r₂.afterConvert rom full ir := by
  cases h : saturated r₂.integ full ir with
  | true =>
    rw [afterConvert_of_saturated rom (integ ▸ h), afterConvert_of_saturated rom h, writeSaturated_congr configured integ, gain, pkg]
    rfl
  | false =>
    rw [afterConvert_of_not_saturated rom (integ ▸ h), afterConvert_of_not_saturated rom h, integ, gain, pkg,
      writeResult_congr configured gain integ pkg]

/-! ### The values of a conversion -/

theorem convertCounts_fullScaled (integ : IntegTime) (gain : Gain) (pkg : Package) (rom : CalRom) (full ir : Half) :
    (convertCounts integ gain pkg rom full ir).fullScaled =
      full.toNat * scaleOfCodes integ.code.toNat gain.bit.toNat / 1024 := by
  rw [← channelScale_eq, ← scaleChannel_eq, convertCounts]

theorem convertCounts_irScaled (integ : IntegTime) (gain : Gain) (pkg : Package) (rom : CalRom) (full ir : Half) :
    (convertCounts integ gain pkg rom full ir).irScaled = ir.toNat * scaleOfCodes integ.code.toNat gain.bit.toNat / 1024 := by
  rw [← channelScale_eq, ← scaleChannel_eq, convertCounts]

theorem convertCounts_selection (integ : IntegTime) (gain : Gain) (pkg : Package) (rom : CalRom) (full ir : Half) :
    (convertCounts integ gain pkg rom full ir).selection =
      select (rom.table pkg) pkg (convertCounts integ gain pkg rom full ir).ratio := rfl

/-- The lux is at most what the full-spectrum product alone gives. -/
theorem descale_linearTerm_le_product (fullScaled irScaled : Nat) (b m : Half) :
    descale (clampTerm (linearTerm fullScaled irScaled b m)) ≤ (fullScaled * b.toNat + 8192) / 16384 := by
  have subtracted : (0 : Int) ≤ (irScaled : Int) * (m.toNat : Int) := by positivity
  have term : linearTerm fullScaled irScaled b m ≤ (fullScaled * b.toNat : Nat) := by
    simp only [linearTerm, Nat.cast_mul]
    omega
  have lux := descale_clampTerm (linearTerm fullScaled irScaled b m)
  omega

theorem convertCounts_lux_le {integ : IntegTime} {gain : Gain} {pkg : Package} {rom : CalRom} {full ir : Half} {c : Conversion}
    (h : c = convertCounts integ gain pkg rom full ir) : c.lux ≤ (c.fullScaled * c.selection.b.toNat + 8192) / 16384 := by
  rw [h]
  exact descale_linearTerm_le_product _ _ _ _

theorem firstEntry_zero (tab : CalTable) : firstEntry tab 0 = some 0 :=
  firstEntry_eq_some.mpr ⟨Nat.zero_le _, fun j hj => absurd hj (Fin.not_lt_zero j)⟩

/-- With the full-spectrum channel dark nothing is divided, and the linear term is not positive (R145). -/
theorem convertCounts_dark (integ : IntegTime) (gain : Gain) (pkg : Package) (rom : CalRom) (ir : Half) :
    convertCounts integ gain pkg rom 0 ir =
      ⟨0, 0, scaleChannel (channelScale integ gain) ir, 0, selectionOf (rom.table pkg) 0⟩ := by
  have dark : scaleChannel (channelScale integ gain) 0 = 0 := by simp [scaleChannel_eq]
  have ratio (irScaled : Nat) : roundRatio (rawRatio 0 irScaled) = 0 := by simp [roundRatio_eq, rawRatio_eq]
  have lux (irScaled : Nat) (b m : Half) : descale (clampTerm (linearTerm 0 irScaled b m)) = 0 := by
    simpa using descale_linearTerm_le_product 0 irScaled b m
  simp only [convertCounts, dark, ratio, lux, select_of_firstEntry pkg (firstEntry_zero (rom.table pkg))]

/-! ### The bounds of R143 -/

/-- The largest coefficients the default tables hold (R143). -/
theorem select_default_le (pkg : Package) (ratio : Nat) :
    (select (defaultRom.table pkg) pkg ratio).b.toNat ≤ 642 ∧ (select (defaultRom.table pkg) pkg ratio).m.toNat ≤ 1022 := by
  have entries : ∀ i : Fin 8, ((defaultRom.table pkg).entry i).b.toNat ≤ 642 ∧ ((defaultRom.table pkg).entry i).m.toNat ≤ 1022 := by
    cases pkg <;> decide
  obtain ⟨i, h⟩ | h := select_cases (defaultRom.table pkg) pkg ratio
  · rw [h]
    exact entries i
  · rw [h]
    decide

/-- The products and the lux of scaled channels within R143's bound, for coefficients within given bounds. -/
theorem Conversion.Bounded.products_le {c : Conversion} (bounded : c.Bounded) {b m : Nat} (hb : c.selection.b.toNat ≤ b)
    (hm : c.selection.m.toNat ≤ m) :
    c.fullScaled * c.selection.b.toNat ≤ 2353546 * b ∧ c.irScaled * c.selection.m.toNat ≤ 2353546 * m :=
  ⟨Nat.mul_le_mul bounded.full_scaled hb, Nat.mul_le_mul bounded.ir_scaled hm⟩

/-- One count on the full-spectrum channel against the most that 402 ms takes gives the largest raw ratio, at either gain (R143). -/
theorem rawRatio_largest (gain : Gain) :
    rawRatio (scaleChannel (channelScale .ms402 gain) 1) (scaleChannel (channelScale .ms402 gain) 65000) = 66560000 := by
  simp only [rawRatio_eq, scaleChannel_eq]
  cases gain <;> decide

/-- At 101 ms and at 13.7 ms with gain x1 the lux needs more than 16 bits (R143). -/
theorem convertCounts_lux_wide (pkg : Package) :
    65535 < (convertCounts .ms101 .x1 pkg defaultRom 37000 0).lux ∧ 65535 < (convertCounts .ms13 .x1 pkg defaultRom 4900 0).lux := by
  cases pkg <;> decide

end Sys2Proof.Machine

open Sys2Proof Sys2Proof.Machine

/-- Settles O49: the writes of the setting leave the result registers, and CONVERT stores values within the bounds. -/
theorem stepKeepsResultBounds : Obligations.StepKeepsResultBounds := ⟨fun _ => Regs.reset_bounded, step_bounded⟩

/-- Settles O27. -/
theorem saturatesExactlyAboveThreshold : Obligations.SaturatesExactlyAboveThreshold := by
  intro s full ir configured
  refine ⟨_, exec_convert configured full ir, ?_⟩
  rw [State.respond_regs, Regs.afterConvert_sat, saturated_iff_clipOfCode]

/-- Settles O28. -/
theorem saturatedConvertWritesZeros : Obligations.SaturatedConvertWritesZeros := by
  intro s full ir configured above
  rw [exec_convert configured, Regs.afterConvert_of_saturated s.rom (saturated_iff_clipOfCode.mpr above)]
  rfl

/-- Settles O29: the values are those of `convertCounts`, and storing them drops nothing. -/
theorem convertComputesLux : Obligations.ConvertComputesLux := by
  intro s full ir configured hfull hir
  have within := not_saturated hfull hir
  obtain ⟨c, hc⟩ : ∃ c, c = convertCounts s.regs.integ s.regs.gain s.regs.pkg s.rom full ir := ⟨_, rfl⟩
  obtain ⟨fullStored, irStored, ratioStored, luxStored⟩ :=
    s.regs.writeResult_toNat (hc ▸ convertCounts_bounded s.regs.gain s.regs.pkg s.rom within)
  have run : exec (.convert full ir) s = answerWrite (s.regs.writeResult c) s := by
    rw [exec_convert configured, Regs.afterConvert_of_not_saturated s.rom within, hc]
  have entry : SelectsEntry (s.rom.table s.regs.pkg) s.regs.pkg c.ratio c.selection.sel.toNat c.selection.b c.selection.m := by
    rw [selectsEntry_iff, hc, ← convertCounts_selection]
    exact ⟨rfl, rfl, rfl⟩
  have lux : ((s.regs.writeResult c).lux.toNat : Int) =
      (max 0 ((c.fullScaled : Int) * c.selection.b.toNat - c.irScaled * c.selection.m.toNat) + 8192) / 16384 := by
    rw [luxStored]
    exact convertCounts_lux hc
  exact ⟨c.fullScaled, c.irScaled, c.ratio, c.selection.sel.toNat, c.selection.b, c.selection.m, _,
    by rw [hc, convertCounts_fullScaled], by rw [hc, convertCounts_irScaled], convertCounts_ratio hc, entry, run, lux,
    fullStored, irStored, ratioStored, rfl, rfl, rfl, rfl, rfl, rfl, rfl, rfl, rfl, rfl, rfl, rfl⟩

/-- Settles O32: RATIO holds each ratio exactly, and SEL is what the selector answers for it. -/
theorem selectionIsMonotone : Obligations.SelectionIsMonotone := by
  intro s t u full₁ ir₁ full₂ ir₂ run₁ run₂ configured sat₁ sat₂ ratio_le
  rw [exec_convert_regs configured run₁] at sat₁ ratio_le ⊢
  rw [exec_convert_regs configured run₂] at sat₂ ratio_le ⊢
  rw [Regs.afterConvert_sat] at sat₁ sat₂
  rw [Regs.afterConvert_of_not_saturated s.rom sat₁, Regs.afterConvert_of_not_saturated s.rom sat₂] at ratio_le ⊢
  obtain ⟨-, -, ratio₁, -⟩ := s.regs.writeResult_toNat (convertCounts_bounded s.regs.gain s.regs.pkg s.rom sat₁)
  obtain ⟨-, -, ratio₂, -⟩ := s.regs.writeResult_toNat (convertCounts_bounded s.regs.gain s.regs.pkg s.rom sat₂)
  rw [ratio₁, ratio₂] at ratio_le
  exact select_sel_mono _ _ ratio_le

/-- Settles O33. -/
theorem darkFullChannelGivesZeroLux : Obligations.DarkFullChannelGivesZeroLux := by
  intro s ir configured hir
  have within : saturated s.regs.integ 0 ir = false := not_saturated (Nat.zero_le _) hir
  refine ⟨_, exec_convert configured 0 ir, ?_⟩
  rw [State.respond_regs, Regs.afterConvert_of_not_saturated s.rom within, convertCounts_dark]
  refine ⟨rfl, rfl, rfl, rfl, ?_, rfl, rfl⟩
  simp

/-- Settles O34: the bounds for every ROM, the tighter ones for the coefficients of the default tables, and the values reached. -/
theorem conversionWidths : Obligations.ConversionWidths := by
  intro integ gain pkg full ir hfull hir
  have within := not_saturated hfull hir
  rw [← IntegTime.clip_eq] at hfull hir
  refine ⟨product_le gain hfull, product_le gain hir, fun rom c hc => ?_, fun c hc => ?_, rawRatio_largest gain,
    convertCounts_lux_wide pkg⟩
  · have bounded : c.Bounded := hc ▸ convertCounts_bounded gain pkg rom within
    have raw : rawRatio c.fullScaled c.irScaled ≤ 66560000 := hc ▸ rawRatio_le gain hir
    obtain ⟨bProduct, mProduct⟩ :=
      bounded.products_le (Nat.le_of_lt_succ c.selection.b.isLt) (Nat.le_of_lt_succ c.selection.m.isLt)
    exact ⟨bounded.full_scaled, bounded.ir_scaled, Nat.mul_le_mul_right 1024 bounded.ir_scaled, raw, bounded.ratio, bProduct,
      mProduct, bounded.lux⟩
  · have bounded : c.Bounded := hc ▸ convertCounts_bounded gain pkg defaultRom within
    obtain ⟨hb, hm⟩ : c.selection.b.toNat ≤ 642 ∧ c.selection.m.toNat ≤ 1022 := hc ▸ select_default_le pkg _
    obtain ⟨bProduct, mProduct⟩ := bounded.products_le hb hm
    have lux := convertCounts_lux_le hc
    exact ⟨bProduct, mProduct, by omega⟩

/-- Settles O35. -/
theorem conversionReadsOnlyItsInputs : Obligations.ConversionReadsOnlyItsInputs := by
  intro s₁ s₂ t₁ full ir configured₁ configured₂ integ gain pkg rom run
  refine ⟨_, exec_convert configured₂ full ir, ?_⟩
  rw [exec_convert_regs configured₁ run, State.respond_regs, rom]
  exact Regs.afterConvert_congr (configured₁.trans configured₂.symm) gain integ pkg s₂.rom full ir

/-- Settles O36: the saturation test reads INTEG and the counts, and a saturated result keeps the setting alone. -/
theorem saturationIgnoresGainAndPackage : Obligations.SaturationIgnoresGainAndPackage := by
  intro s₁ s₂ t₁ full ir configured₁ configured₂ integ run
  refine ⟨_, exec_convert configured₂ full ir, ?_⟩
  rw [exec_convert_regs configured₁ run, State.respond_regs, Regs.afterConvert_sat, Regs.afterConvert_sat, integ]
  refine ⟨rfl, fun saturates => ?_⟩
  rw [Regs.afterConvert_of_saturated s₁.rom (integ ▸ saturates), Regs.afterConvert_of_saturated s₂.rom saturates]
  exact Regs.writeSaturated_congr (configured₁.trans configured₂.symm) integ
end

section
/-! The calibration tables: which pairs of tables `step` refuses (R173), and the end of the selector's scan: when it reaches entry 8
(R177) and what each package does above every bound (R176). -/

namespace Sys2Proof

/-! ### Tables inside the spec -/

theorem CalTable.ordered_iff_monotone {tab : CalTable} : tab.ordered = true ↔ Monotone fun i => (tab.entry i).k.toNat := by
  refine ⟨CalTable.bound_monotone, fun increasing => Machine.calTable_ordered_iff.mpr ?_⟩
  have next (i : Fin 7) : (tab.entry i.castSucc).k.toNat ≤ (tab.entry i.succ).k.toNat := increasing i.castSucc_lt_succ.le
  exact ⟨next 0, next 1, next 2, next 3, next 4, next 5, next 6⟩

theorem CalRom.ordered_iff {rom : CalRom} : rom.ordered = true ↔ ∀ pkg, (rom.table pkg).ordered = true := by
  rw [ordered, Bool.and_eq_true]
  refine ⟨fun ⟨cs, t⟩ pkg => ?_, fun both => ⟨both .cs, both .t⟩⟩
  cases pkg with
  | cs => exact cs
  | t => exact t

/-- The tables are inside the spec when no bound exceeds a later one of its table (R173). -/
theorem CalRom.ordered_iff_bounds {rom : CalRom} : rom.ordered = true ↔
    ∀ (pkg : Package) (i j : Fin 8), i < j → ((rom.table pkg).entry i).k.toNat ≤ ((rom.table pkg).entry j).k.toNat := by
  simp only [ordered_iff, CalTable.ordered_iff_monotone, monotone_iff_forall_lt]

namespace Machine

theorem step_of_not_ordered {s : State} (outside : ¬ s.rom.ordered = true) : step s = .refused .calibrationOutsideSpec :=
  if_neg outside

/-- Every event taken from the port leaves a next state: an error is an answer (R215). -/
theorem takeEvent_next (e : HostEvent) (s : State) : ∃ t, takeEvent e s = .next t := by
  cases e with
  | reset => exact ⟨_, rfl⟩
  | transaction tr =>
    rw [takeEvent]
    cases decoded : decode tr with
    | none => exact ⟨_, perform_of_illegal decoded s⟩
    | some i =>
      obtain ⟨o, -, answer⟩ := exec_answers i s
      exact ⟨_, (perform_of_decode decoded s).trans (answer s rfl rfl)⟩

theorem step_next {s : State} (ordered : s.rom.ordered = true) : ∃ t, step s = .next t := by
  cases port : s.pending with
  | nil => exact ⟨s, by rw [step, if_pos ordered, fetch_nil port]⟩
  | cons e rest =>
    rw [step_of_pending ordered port]
    exact takeEvent_next e _

/-! ### The end of the scan -/

theorem select_of_above_last {tab : CalTable} {ratio : Nat} (pkg : Package) (ordered : tab.ordered = true)
    (above : tab.e8.k.toNat < ratio) : select tab pkg ratio = fallBack tab pkg :=
  select_of_above pkg (firstEntry_eq_none.mpr fun i => (CalTable.bound_monotone ordered (Fin.le_last i)).trans_lt above)

/-- The scan stops at entry 8 for the ratios between the last two bounds (R177). -/
theorem firstEntry_eq_last {tab : CalTable} {ratio : Nat} (ordered : tab.ordered = true) :
    firstEntry tab ratio = some 7 ↔ tab.e7.k.toNat < ratio ∧ ratio ≤ tab.e8.k.toNat := by
  rw [firstEntry_eq_some]
  refine ⟨fun ⟨reached, before⟩ => ⟨before 6 (by decide), reached⟩, fun ⟨below, reached⟩ => ⟨reached, fun j hj => ?_⟩⟩
  have hj6 : j ≤ 6 := Fin.le_def.mpr (Nat.le_of_lt_succ hj)
  exact (CalTable.bound_monotone ordered hj6).trans_lt below

theorem selectionOf_sel_eq_eight {tab : CalTable} {i : Fin 8} : (selectionOf tab i).sel = 8 ↔ i = 7 := by
  rw [← BitVec.toNat_inj, selectionOf_sel_toNat, Fin.ext_iff]
  exact Nat.succ_inj

theorem fallBack_sel_eq_eight {tab : CalTable} {pkg : Package} : (fallBack tab pkg).sel = 8 ↔ pkg = .t := by
  cases pkg <;> simp [fallBack]

/-- SEL is 8 where the scan stops at entry 8, and where T/FN/CL falls back to it (R176, R177). -/
theorem select_sel_eq_eight {tab : CalTable} {pkg : Package} {ratio : Nat} (ordered : tab.ordered = true) :
    (select tab pkg ratio).sel = 8 ↔
      (tab.e7.k.toNat < ratio ∧ ratio ≤ tab.e8.k.toNat) ∨ (pkg = .t ∧ tab.e8.k.toNat < ratio) := by
  by_cases above : tab.e8.k.toNat < ratio
  · rw [select_of_above_last pkg ordered above, fallBack_sel_eq_eight]
    simp [above]
  · obtain ⟨i, found⟩ : ∃ i, firstEntry tab ratio = some i :=
      Option.ne_none_iff_exists'.mp fun missing => above (firstEntry_eq_none.mp missing 7)
    rw [select_of_firstEntry pkg found, selectionOf_sel_eq_eight, ← firstEntry_eq_last ordered, found]
    simp [above]

/-! ### The default tables above every bound -/

/-- With the default tables no coefficient is left above 0x029A, whatever the package (R176). -/
theorem select_default_above (pkg : Package) {ratio : Nat} (above : 0x029A < ratio) :
    select (defaultRom.table pkg) pkg ratio = ⟨if pkg = .t then 8 else 9, 0, 0⟩ := by
  cases pkg with
  | cs => exact select_of_above_last .cs (by decide) above
  | t => exact select_of_above_last .t (by decide) above

/-- Without a coefficient b there is no lux (R139 to R141). -/
theorem convertCounts_lux_of_b_zero {integ : IntegTime} {gain : Gain} {pkg : Package} {rom : CalRom} {full ir : Half}
    {c : Conversion} (h : c = convertCounts integ gain pkg rom full ir) (b_zero : c.selection.b = 0) : c.lux = 0 := by
  simpa [b_zero] using convertCounts_lux_le h

end Machine

end Sys2Proof

open Sys2Proof Sys2Proof.Machine

/-- Settles O10: with ordered tables every event, and an empty port, has a next state. -/
theorem decreasingBoundsRefused : Obligations.DecreasingBoundsRefused := by
  refine fun s => ⟨fun ⟨pkg, i, j, hij, decreases⟩ => step_of_not_ordered fun ordered => ?_, fun bounds => ?_⟩
  · exact (CalRom.ordered_iff_bounds.mp ordered pkg i j hij).not_gt decreases
  · exact step_next (CalRom.ordered_iff_bounds.mpr bounds)

/-- Settles O37: with K7 = K8 no ratio lies between the last two bounds. -/
theorem entryEightReached : Obligations.EntryEightReached := by
  refine ⟨rfl, rfl, fun tab pkg ratio ordered => ⟨fun equal => ?_, fun below reached => ?_⟩⟩
  · rw [select_sel_eq_eight ordered, equal]
    exact or_iff_right fun ⟨below, reached⟩ => reached.not_gt below
  · exact select_of_firstEntry pkg ((firstEntry_eq_last ordered).mpr ⟨below, reached⟩)

/-- Settles O38: RATIO holds the ratio exactly, and the coefficients it selects give no lux. -/
theorem packagesDifferAboveEveryBound : Obligations.PackagesDifferAboveEveryBound := by
  refine ⟨fun tab ratio ordered above => ⟨select_of_above_last .t ordered above, select_of_above_last .cs ordered above⟩, ?_⟩
  intro s t full ir configured rom run sat above
  rw [exec_convert_regs configured run, rom] at sat above ⊢
  rw [Regs.afterConvert_sat] at sat
  rw [Regs.afterConvert_of_not_saturated defaultRom sat] at above ⊢
  obtain ⟨c, hc⟩ : ∃ c, c = convertCounts s.regs.integ s.regs.gain s.regs.pkg defaultRom full ir := ⟨_, rfl⟩
  obtain ⟨-, -, ratio, -⟩ := s.regs.writeResult_toNat (convertCounts_bounded s.regs.gain s.regs.pkg defaultRom sat)
  rw [ratio] at above
  have selection : c.selection = ⟨if s.regs.pkg = .t then 8 else 9, 0, 0⟩ := by
    rw [hc, convertCounts_selection, select_default_above _ above]
  have lux : c.lux = 0 := convertCounts_lux_of_b_zero hc (by rw [selection])
  rw [← hc, Regs.writeResult_coefB, Regs.writeResult_coefM, Regs.writeResult_lux, Regs.writeResult_sel, selection, lux]
  exact ⟨rfl, rfl, rfl, rfl⟩

/-- Settles O12: entry by entry, the port's word against V76's list. -/
theorem resetHoldsDefaultTables : Obligations.ResetHoldsDefaultTables := by
  refine ⟨rfl, rfl, ?_, ?_, ?_, ?_⟩ <;> decide
end

section
/-! The result and table read-back (R190 to R200): the word of each read as the number its register's fields make, and what STATUS says of
the conversion before it. -/

namespace Sys2Proof

/-- Two halves of a register as the number they make. -/
theorem append_halves (hi lo : Half) : hi ++ lo = BitVec.ofNat 32 (65536 * hi.toNat + lo.toNat) := by
  apply BitVec.eq_of_toNat_eq
  rw [append_number, BitVec.toNat_ofNat]
  omega

namespace Machine

/-- STATUS as the number its three flags make (R29, R191). -/
theorem Regs.statusWord_eq (r : Regs) :
    r.statusWord = BitVec.ofNat 32 (4 * r.configured.toNat + 2 * r.resultValid.toNat + r.sat.toNat) := by
  apply BitVec.eq_of_toNat_eq
  have configured := r.configured.toNat_lt
  have resultValid := r.resultValid.toNat_lt
  have sat := r.sat.toNat_lt
  simp only [statusWord, append_number, BitVec.toNat_ofBool, BitVec.toNat_ofNat]
  omega

/-- STATUS[0] is SAT (R29). -/
theorem Regs.statusWord_bit_zero (r : Regs) : r.statusWord.getLsbD 0 = r.sat := by
  rw [statusWord, BitVec.getLsbD_append, if_pos Nat.zero_lt_one, BitVec.getLsbD_ofBool, decide_eq_true rfl, Bool.true_and]

/-- Under R39's invariants a result is configured and a saturated one is a result, which leaves four values (R191). -/
theorem Regs.Inv.statusWord_values {r : Regs} (inv : r.Inv) :
    r.statusWord = 0x0 ∨ r.statusWord = 0x4 ∨ r.statusWord = 0x6 ∨ r.statusWord = 0x7 := by
  rw [statusWord_eq]
  cases result : r.resultValid with
  | false =>
    obtain ⟨sat, -⟩ := inv.no_result result
    rw [sat]
    cases r.configured <;> simp
  | true =>
    rw [inv.result_configured result]
    cases r.sat <;> simp

end Machine

end Sys2Proof

open Sys2Proof Sys2Proof.Machine

/-- Settles O46: no read writes a register, so both read the ones that CONVERT left, and STATUS[0] is their SAT. -/
theorem luxPairBelongsToOneConversion : Obligations.LuxPairBelongsToOneConversion := by
  intro s full ir configured
  have flag : (s.regs.afterConvert s.rom full ir).statusWord.getLsbD 0 = saturated s.regs.integ full ir := by
    rw [Regs.statusWord_bit_zero, Regs.afterConvert_sat]
  refine ⟨_, _, _, (s.regs.afterConvert s.rom full ir).statusWord, (s.regs.afterConvert s.rom full ir).lux,
    exec_convert configured full ir, rfl, rfl, ?responses, ?saturates, rfl, fun saturates => ?lux, rfl⟩
  case responses => simp
  case saturates => rw [flag, saturated_iff_clipOfCode]
  case lux => rw [Regs.afterConvert_of_saturated s.rom (flag ▸ saturates), Regs.writeSaturated_lux]

/-- Settles O40. -/
theorem statusReadsItsFlags : Obligations.StatusReadsItsFlags := fun s =>
  ⟨s.regs.statusWord, s.regs.statusWord_eq, rfl, Regs.Inv.statusWord_values⟩

/-- Settles O41: each read answers its register as it stands. -/
theorem resultReadsReturnTheirRegisters : Obligations.ResultReadsReturnTheirRegisters := fun _ => ⟨rfl, rfl, rfl, rfl⟩

/-- Settles O42: SEL is read zero-extended, COEF as its two halves. -/
theorem selectionReads : Obligations.SelectionReads := by
  intro s
  rw [BitVec.ofNat_toNat, ← append_halves]
  exact ⟨rfl, rfl⟩

/-- Settles O43: the word is made of the entry's fields, CAL_KB as two halves and CAL_M zero-extended. -/
theorem calibrationReads : Obligations.CalibrationReads := by
  intro s e
  simp only [BitVec.ofNat_toNat, ← append_halves]
  exact ⟨rfl, rfl, rfl, rfl⟩
end

section
/-! Errors (R210 to R216): which code each transaction is answered with, that a refusal changes nothing but the port, and that the event
after it has the outcome it would have had without it. -/

namespace Sys2Proof

/-! ### The ILLEGAL headers -/

/-- R213's list holds the read indices with no transaction. -/
theorem decodeRead_none_iff (idx : Index) :
    decodeRead idx = none ↔ illegalHeaderNumber (Transaction.read idx).header.toNat = true := by
  revert idx; decide

/-- R213's list holds the write indices other than those of the four writes. -/
theorem illegalHeaderNumber_write (idx : Index) (w : Word) :
    illegalHeaderNumber (Transaction.write idx w).header.toNat = !decide (idx.toNat ≤ 2 ∨ idx.toNat = 4) := by
  have listed : ∀ idx : Index, illegalHeaderNumber (1#1 ++ idx : Byte).toNat = !decide (idx.toNat ≤ 2 ∨ idx.toNat = 4) := by decide
  exact listed idx

theorem decodeWrite_none_iff (idx : Index) (w : Word) :
    decodeWrite idx w = none ↔ illegalHeaderNumber (Transaction.write idx w).header.toNat = true := by
  rw [illegalHeaderNumber_write, ← decodeWrite_isSome idx w, Option.not_isSome, Option.isNone_iff_eq_none]

theorem decode_none_iff (tr : Transaction) : decode tr = none ↔ illegalHeaderNumber tr.header.toNat = true := by
  cases tr with
  | read idx => exact decodeRead_none_iff idx
  | write idx w => exact decodeWrite_none_iff idx w

/-! ### The operands R74 does not list, as numbers -/

theorem wrConfig_illFormed {w : Word} :
    (Instr.wrConfig w).wellFormed = false ↔ 2 < w.toNat % 16 ∨ w.toNat / 32 % 8 ≠ 0 ∨ w.toNat / 512 ≠ 0 := by
  rw [Instr.wellFormed, ← Machine.configOperand_isSome, Option.isSome_eq_false_iff, Option.isNone_iff_eq_none, Machine.configOperand_none]

theorem wrGain_illFormed {w : Word} : (Instr.wrGain w).wellFormed = false ↔ w.toNat ≠ 0x00 ∧ w.toNat ≠ 0x10 := by
  rw [Instr.wellFormed, ← Machine.gainOperand_isSome, Option.isSome_eq_false_iff, Option.isNone_iff_eq_none, Machine.gainOperand_none,
    ne_eq, ne_eq, ← BitVec.toNat_inj, ← BitVec.toNat_inj]
  rfl

theorem wrTiming_illFormed {w : Word} : (Instr.wrTiming w).wellFormed = false ↔ 2 < w.toNat := by
  rw [Instr.wellFormed, ← Machine.timingOperand_isSome, Option.isSome_eq_false_iff, Option.isNone_iff_eq_none, Machine.timingOperand_none]

/-! ### The code an instruction is answered with -/

/-- The transactions that R212 refuses until the LCE is configured. -/
def Instr.needsConfigured : Instr → Bool
  | .wrGain _ | .wrTiming _ | .convert _ _ => true
  | _ => false

theorem Instr.needsConfigured_iff {i : Instr} :
    i.needsConfigured = true ↔ (∃ w, i = .wrGain w) ∨ (∃ w, i = .wrTiming w) ∨ ∃ full ir, i = .convert full ir := by
  cases i <;> simp [needsConfigured]

namespace Machine

/-- The code of an instruction's response, in R216's order: CONFIGURED first, then the value. -/
def answerCode (configured : Bool) (i : Instr) : RespCode :=
  if i.needsConfigured && !configured then .notConfigured else if i.wellFormed then .okay else .cfgError

theorem answerCode_ne_accessError (configured : Bool) (i : Instr) : answerCode configured i ≠ .accessError := by
  unfold answerCode
  split
  · decide
  · split <;> decide

theorem answerCode_eq_notConfigured {configured : Bool} {i : Instr} :
    answerCode configured i = .notConfigured ↔ configured = false ∧ i.needsConfigured = true := by
  rw [and_comm, answerCode]
  split
  next unready => simpa using unready
  next ready =>
    have other : (if i.wellFormed then RespCode.okay else .cfgError) ≠ .notConfigured := by split <;> decide
    simpa [other] using ready

theorem answerCode_eq_cfgError {configured : Bool} {i : Instr} :
    answerCode configured i = .cfgError ↔ i.wellFormed = false ∧ (i.needsConfigured = true → configured = true) := by
  unfold answerCode
  split
  next unready =>
    obtain ⟨needs, unconfigured⟩ : i.needsConfigured = true ∧ configured = false := by simpa using unready
    simp [needs, unconfigured]
  next ready =>
    have passes : i.needsConfigured = true → configured = true := by simpa using ready
    rw [and_iff_left passes]
    cases i.wellFormed <;> decide

/-- CFG_ERROR is left to the three writes of the setting (R211). -/
theorem answerCode_eq_cfgError_iff_setting {configured : Bool} {i : Instr} :
    answerCode configured i = .cfgError ↔
      (∃ w : Word, i = .wrConfig w ∧ (2 < w.toNat % 16 ∨ w.toNat / 32 % 8 ≠ 0 ∨ w.toNat / 512 ≠ 0)) ∨
      (∃ w : Word, i = .wrGain w ∧ configured = true ∧ w.toNat ≠ 0x00 ∧ w.toNat ≠ 0x10) ∨
      (∃ w : Word, i = .wrTiming w ∧ configured = true ∧ 2 < w.toNat) := by
  rw [answerCode_eq_cfgError]
  cases i with
  | wrConfig w => simp [wrConfig_illFormed, Instr.needsConfigured]
  | wrGain w => simp [wrGain_illFormed, Instr.needsConfigured, and_comm]
  | wrTiming w => simp [wrTiming_illFormed, Instr.needsConfigured, and_comm]
  | convert | rdConfig | rdGain | rdTiming | rdDelay | rdStatus | rdLux | rdFullScaled | rdIrScaled | rdRatio | rdSelect | rdCoef
  | rdCalKb | rdCalM => simp [Instr.wellFormed]

theorem exec_convert_unconfigured (full ir : Half) {s : State} (unconfigured : s.regs.configured = false) :
    exec (.convert full ir) s = raise .notConfigured s := by
  rw [exec, execConvert, unconfigured, if_neg Bool.false_ne_true]

/-- Before the first accepted WR_CONFIG, the transactions of R212 are refused whatever their word. -/
theorem exec_unconfigured {i : Instr} {s : State} (needs : i.needsConfigured = true) (unconfigured : s.regs.configured = false) :
    exec i s = raise .notConfigured s := by
  obtain ⟨w, rfl⟩ | ⟨w, rfl⟩ | ⟨full, ir, rfl⟩ := Instr.needsConfigured_iff.mp needs
  · exact exec_wrGain_unconfigured w unconfigured
  · exact exec_wrTiming_unconfigured w unconfigured
  · exact exec_convert_unconfigured full ir unconfigured

/-- WR_CONFIG and the reads do not look at CONFIGURED: the answer is by the operand alone. -/
theorem exec_responds_of_not_needsConfigured {i : Instr} (free : i.needsConfigured = false) (s : State) :
    Responds (exec i s) s (if i.wellFormed then .okay else .cfgError) := by
  cases i with
  | wrGain | wrTiming | convert => cases free
  | wrConfig w =>
    rw [exec_wrConfig, Instr.wellFormed, ← configOperand_isSome]
    cases configOperand w with
    | none => exact responds_raise _ s
    | some fields => exact responds_answerWrite _ s
  | rdConfig | rdGain | rdTiming | rdDelay | rdStatus | rdLux | rdFullScaled | rdIrScaled | rdRatio | rdSelect | rdCoef
  | rdCalKb | rdCalM => exact responds_answerRead _ s

theorem exec_responds_answerCode (i : Instr) (s : State) : Responds (exec i s) s (answerCode s.regs.configured i) := by
  rw [answerCode]
  cases configured : s.regs.configured with
  | true => simpa using exec_responds i configured
  | false =>
    cases needs : i.needsConfigured with
    | true =>
      rw [exec_unconfigured needs configured]
      exact responds_raise _ s
    | false => exact exec_responds_of_not_needsConfigured needs s

/-! ### What an answer leaves, and what it depends on -/

/-- A refusal answers read data 0 and leaves all but the responses as it was (R215). -/
theorem Answers.refused {f : State → Result} {s t : State} {r : Response} (answers : Answers f s) (h : f s = .next t)
    (response : t.responses = s.responses ++ [r]) (refused : r.code ≠ .okay) :
    r.rdata = 0 ∧ t = { s with responses := s.responses ++ [r] } := by
  obtain ⟨o, discards, answer⟩ := answers
  obtain rfl : s.after o = t := by simpa [answer s rfl rfl] using h
  obtain rfl : ⟨o.code, o.rdata⟩ = r := by simpa using response
  obtain ⟨regs, rdata⟩ := discards refused
  exact ⟨rdata, by rw [State.after, regs]; rfl⟩

/-- The responses given before do not matter to the next one. -/
theorem Answers.withResponses {f : State → Result} {s t : State} (answers : Answers f s) (h : f s = .next t) :
    ∃ given, t.responses = s.responses ++ given ∧
      ∀ before, f { s with responses := before } = .next { t with responses := before ++ given } := by
  obtain ⟨o, -, answer⟩ := answers
  obtain rfl : s.after o = t := by simpa [answer s rfl rfl] using h
  exact ⟨_, s.after_responses o, fun before => answer { s with responses := before } rfl rfl⟩

/-- A transaction is answered as an instruction is, an ILLEGAL one by its refusal. -/
theorem perform_answers (tr : Transaction) (s : State) : Answers (perform tr) s := by
  cases decoded : decode tr with
  | some i =>
    rw [funext (perform_of_decode decoded)]
    exact exec_answers i s
  | none =>
    rw [funext (perform_of_illegal decoded)]
    exact answers_raise .accessError s

/-! ### The step -/

theorem step_of_transaction {s : State} {tr : Transaction} {rest : List HostEvent} (ordered : s.rom.ordered = true)
    (port : s.pending = .transaction tr :: rest) : step s = perform tr { s with pending := rest } :=
  step_of_pending ordered port

theorem step_of_idle {s : State} (ordered : s.rom.ordered = true) (port : s.pending = []) : step s = .next s := by
  rw [step, if_pos ordered, fetch_nil port]

/-- An ILLEGAL header is answered ACCESS_ERROR in every state and changes nothing but the port (R213). -/
theorem step_of_illegal {s : State} {tr : Transaction} {rest : List HostEvent} (ordered : s.rom.ordered = true)
    (port : s.pending = .transaction tr :: rest) (illegal : decode tr = none) :
    step s = .next { s with pending := rest, responses := s.responses ++ [⟨.accessError, 0⟩] } :=
  (step_of_transaction ordered port).trans (perform_of_illegal illegal _)

/-- Until the LCE is configured, the transactions of R212 are answered NOT_CONFIGURED and change nothing but the port. -/
theorem step_of_unconfigured {s : State} {tr : Transaction} {rest : List HostEvent} {i : Instr} (ordered : s.rom.ordered = true)
    (port : s.pending = .transaction tr :: rest) (decoded : decode tr = some i) (needs : i.needsConfigured = true)
    (unconfigured : s.regs.configured = false) :
    step s = .next { s with pending := rest, responses := s.responses ++ [⟨.notConfigured, 0⟩] } := by
  rw [step_of_transaction ordered port, perform_of_decode decoded]
  exact exec_unconfigured (s := { s with pending := rest }) needs unconfigured

theorem takeEvent_withResponses {e : HostEvent} {s t : State} (h : takeEvent e s = .next t) :
    ∃ given, t.responses = s.responses ++ given ∧
      ∀ before, takeEvent e { s with responses := before } = .next { t with responses := before ++ given } := by
  cases e with
  | reset =>
    cases h
    exact ⟨[], (List.append_nil _).symm, fun before => by rw [List.append_nil]; rfl⟩
  | transaction tr => exact (perform_answers tr s).withResponses h

/-- No step looks at the responses given before. -/
theorem step_withResponses {s t : State} (h : step s = .next t) :
    ∃ given, t.responses = s.responses ++ given ∧
      ∀ before, step { s with responses := before } = .next { t with responses := before ++ given } := by
  have ordered := ordered_of_step h
  by_cases port : s.pending = []
  · rw [step_of_idle ordered port] at h
    cases h
    refine ⟨[], (List.append_nil _).symm, fun before => ?_⟩
    rw [List.append_nil]
    exact step_of_idle (s := { s with responses := before }) ordered port
  · obtain ⟨e, rest, port⟩ := List.exists_cons_of_ne_nil port
    rw [step_of_pending ordered port] at h
    obtain ⟨given, response, others⟩ := takeEvent_withResponses h
    exact ⟨given, response, fun before =>
      (step_of_pending (s := { s with responses := before }) ordered port).trans (others before)⟩

end Machine

end Sys2Proof

open Sys2Proof Sys2Proof.Machine

/-- Settles O8: R213's list is the headers with no instruction, index by index, and those are performed as ACCESS_ERROR. -/
theorem illegalHeadersAnswerAccessError : Obligations.IllegalHeadersAnswerAccessError :=
  ⟨rfl, fun tr => ⟨decode_none_iff tr, fun _ _ ordered port illegal =>
    step_of_illegal ordered port ((decode_none_iff tr).mpr illegal)⟩⟩

/-- Settles O16: the code is `answerCode`'s, and an answer other than OKAY discards every write. -/
theorem errorsRaisedExactlyWhen : Obligations.ErrorsRaisedExactlyWhen := by
  intro i s
  obtain ⟨t, r, run, response, code⟩ := exec_responds_answerCode i s
  refine ⟨t, r, run, response, ?notConfigured, ?cfgError, ?accessError, (exec_answers i s).refused run response⟩
  case notConfigured => rw [code, answerCode_eq_notConfigured, Instr.needsConfigured_iff]
  case cfgError => rw [code, answerCode_eq_cfgError_iff_setting]
  case accessError => exact code ▸ answerCode_ne_accessError _ i

/-- Settles O17: the header decides before CONFIGURED is looked at, and CONFIGURED before the word. -/
theorem errorPriority : Obligations.ErrorPriority := by
  intro s tr rest ordered port
  refine ⟨step_of_illegal ordered port, fun unconfigured w needs => ?_⟩
  obtain rfl | rfl | rfl := needs
  · exact step_of_unconfigured ordered port (decode_encode (.wrGain w)) rfl unconfigured
  · exact step_of_unconfigured ordered port (decode_encode (.wrTiming w)) rfl unconfigured
  · exact step_of_unconfigured (i := .convert _ _) ordered port rfl rfl unconfigured

/-- Settles O18: the refused transaction differs from none at all only in the responses, at which no step looks. -/
theorem refusalIsPreciseAndLeavesNoTrace : Obligations.RefusalIsPreciseAndLeavesNoTrace := by
  intro s tr rest u r ordered port h response refused
  rw [step_of_transaction ordered port] at h
  obtain ⟨rdata, rfl⟩ := (perform_answers tr _).refused h response refused
  refine ⟨by rw [← rdata], fun v without => ?_⟩
  obtain ⟨given, before, others⟩ := step_withResponses without
  exact ⟨given, before, others _⟩
end

section
/-! The hazards: a step takes one event, a transaction with one response and a reset with none (R240, R251), so a run takes every issued
event (R252); and a CONVERT after WR_TIMING sees the new setting (R249). -/

namespace Sys2Proof.Machine

/-! ### One step for one event -/

/-- A performed transaction leaves the port's waiting events and the ROM, and gives one response. -/
theorem perform_next (tr : Transaction) (s : State) :
    ∃ u r, perform tr s = .next u ∧ u.pending = s.pending ∧ u.responses = s.responses ++ [r] ∧ u.rom = s.rom := by
  obtain ⟨o, -, answer⟩ := perform_answers tr s
  exact ⟨s.after o, ⟨o.code, o.rdata⟩, answer s rfl rfl, s.after_pending o, s.after_responses o, s.after_rom o⟩

theorem step_of_transaction_next {s : State} {tr : Transaction} {rest : List HostEvent} (ordered : s.rom.ordered = true)
    (port : s.pending = .transaction tr :: rest) :
    ∃ u r, step s = .next u ∧ u.pending = rest ∧ u.responses = s.responses ++ [r] ∧ u.rom = s.rom := by
  rw [step_of_transaction ordered port]
  exact perform_next tr { s with pending := rest }

theorem step_of_reset {s : State} {rest : List HostEvent} (ordered : s.rom.ordered = true) (port : s.pending = .reset :: rest) :
    step s = .next { s with pending := rest }.applyReset :=
  step_of_pending ordered port

/-! ### As many steps as events -/

theorem run_succ_of_step {n : Nat} {s t : State} (h : step s = .next t) :
    Host.Core.run core (n + 1) s = Host.Core.run core n t := by
  have hcore : core.step s = .next t := h
  simp only [Host.Core.run, hcore]

/-- As many steps as events take them all, with one response for each transaction among them. -/
theorem run_takes_every_event (events : List HostEvent) {s : State} (ordered : s.rom.ordered = true) (port : s.pending = events) :
    ∃ (u : State) (given : List Response), Host.Core.run core events.length s = .next u ∧ u.pending = [] ∧
      u.responses = s.responses ++ given ∧ given.length = transactionCount events := by
  induction events generalizing s with
  | nil => exact ⟨s, [], rfl, port, (List.append_nil _).symm, rfl⟩
  | cons e rest ih =>
    cases e with
    | reset =>
      rw [List.length_cons, run_succ_of_step (step_of_reset ordered port)]
      exact ih (s := ({ s with pending := rest } : State).applyReset) ordered rfl
    | transaction tr =>
      obtain ⟨v, r, hstep, waiting, response, rom⟩ := step_of_transaction_next ordered port
      obtain ⟨u, given, hrun, empty, responses, count⟩ := ih (by rw [rom, ordered]) waiting
      refine ⟨u, r :: given, (run_succ_of_step hstep).trans hrun, empty, ?_, ?_⟩
      · rw [responses, response, List.append_assoc, List.singleton_append]
      · rw [List.length_cons, count, transactionCount]

/-! ### The setting after a conversion -/

@[simp] theorem Regs.afterConvert_integ (r : Regs) (rom : CalRom) (full ir : Half) : (r.afterConvert rom full ir).integ = r.integ := by
  cases h : saturated r.integ full ir with
  | true => rw [afterConvert_of_saturated rom h, writeSaturated_integ]
  | false => rw [afterConvert_of_not_saturated rom h, writeResult_integ]

end Sys2Proof.Machine

open Sys2Proof Sys2Proof.Machine

/-- Settles O13: an ILLEGAL header is answered as a performed transaction is, once. -/
theorem oneResponsePerTransaction : Obligations.OneResponsePerTransaction := fun _ _ _ => step_of_transaction_next

/-- Settles O14, by induction on the pending events. -/
theorem everyIssuedTransactionCompletes : Obligations.EveryIssuedTransactionCompletes := fun s ordered =>
  run_takes_every_event s.pending ordered rfl

/-- Settles O39: the registers CONVERT finds hold the written time, by which it tests the counts and which it leaves. -/
theorem convertSeesNewTiming : Obligations.ConvertSeesNewTiming := by
  intro s w full ir configured legal
  obtain ⟨-, -, accepted⟩ := wrTimingWritesTiming s w
  obtain ⟨integ, code, -, written⟩ := accepted configured legal
  refine ⟨_, _, written, exec_convert (exec_keeps_configured configured written) full ir, ?_, ?_⟩
  · rw [State.respond_regs, Regs.afterConvert_integ]
    exact code
  · rw [State.respond_regs, Regs.afterConvert_sat, saturated_iff_clipOfCode, ← code]

/-- Settles O9. -/
theorem idlePortWaits : Obligations.IdlePortWaits := fun _ => step_of_idle

/-- Settles O11: the one register file is `Regs.reset`. -/
theorem resetSetsEveryRegister : Obligations.ResetSetsEveryRegister :=
  ⟨Regs.reset, by decide, by decide, by decide, State.resetWith_regs defaultRom, fun _ _ => step_of_reset⟩
end
